-- ==== Sys2Proof/Word.lean ====
section
/-!
DEFINITION. The word types of the block (spec 00_scope.md R7, R8): unsigned bytes, 16-bit values,
the eight-byte frame, and a frame packed as one 64-bit word.
-/

namespace Sys2Proof

/-- A byte: 8 bits, bit 7 the most significant (R7, R8). -/
abbrev Byte := BitVec 8

/-- A UserId or a user count: 16 bits unsigned (R7). -/
abbrev Half := BitVec 16

/-- The fixed 8-byte frame, byte `k` of the frame at offset `k` (R8, R60, R90). -/
abbrev Frame := Vector Byte 8

/-- A frame written as one word `F[63:0]`, byte 0 in bits 63..56 and byte 7 in bits 7..0 (R8). -/
abbrev FrameWord := BitVec 64

end Sys2Proof
end

