-- ==== Sys2Proof/Config.lean ====
section
/-!
DEFINITION. What a machine of this kind fixes: the record of the protocol's constants (R5; its values stand in
Machine/Params.lean), and the free values, which are constants without a body.
-/

namespace Sys2Proof

/-- The constants of R5, one record so that a claim may name them. `frameLen` is structural: the type
`Frame` has it built in. -/
structure Params where
  frameLen               : Nat
  startByte              : Byte
  endByte                : Byte
  placeholder            : Byte
  reserved               : Byte
  cmdEnroll1             : Byte
  cmdEnroll2             : Byte
  cmdEnroll3             : Byte
  cmdDeleteUser          : Byte
  cmdDeleteAll           : Byte
  cmdCount               : Byte
  cmdQueryPerm           : Byte
  cmdVerify11            : Byte
  cmdVerify1N            : Byte
  ackSuccess             : Byte
  ackFail                : Byte
  ackDatabaseFull        : Byte
  ackNoUser              : Byte
  ackUserIdOccupied      : Byte
  ackFingerprintOccupied : Byte
  ackTimeout             : Byte
  deriving DecidableEq, Repr

/-- Free value (log entry 2): what an 8-bit element that the spec calls unspecified holds. -/
opaque Config.freeByte : Nat → BitVec 8

/-- Free value (log entry 2): what `res_u16` holds while the spec calls it unspecified. -/
opaque Config.freeHalf : Nat → BitVec 16

/-- Free value (log entry 2): what `res_ack_class` or `res_op_kind` holds while the spec calls it unspecified. -/
opaque Config.freeCode : Nat → BitVec 3

/-- Free value (log entry 2): what `res_chk_ok` holds while the spec calls it unspecified. -/
opaque Config.freeBit : Nat → Bool

/-- Free value (log entry 24): what `tx_byte` shows while `tx_idx` is no offset of the frame. A constant of its own, so that it
is tied to no register. -/
opaque Config.freeTxByte : Nat → BitVec 8

end Sys2Proof
end

