-- ==== Sys2Proof/Machine/Params.lean ====
section
/-!
DEFINITION. The document's values of the protocol constants (R5). UNVERIFIED: the spec calls every one of these literals
unaudited (93_implementation_defined.md U9, G1; log entry 17).
-/

namespace Sys2Proof.Machine

/-- The constants of R5 with the document's values. -/
def params : Params where
  frameLen               := 8
  startByte              := 0xF5#8
  endByte                := 0xF5#8
  placeholder            := 0x00#8
  reserved               := 0x00#8
  cmdEnroll1             := 0x01#8
  cmdEnroll2             := 0x02#8
  cmdEnroll3             := 0x03#8
  cmdDeleteUser          := 0x04#8
  cmdDeleteAll           := 0x05#8
  cmdCount               := 0x09#8
  cmdQueryPerm           := 0x0A#8
  cmdVerify11            := 0x0B#8
  cmdVerify1N            := 0x0C#8
  ackSuccess             := 0x00#8
  ackFail                := 0x01#8
  ackDatabaseFull        := 0x04#8
  ackNoUser              := 0x05#8
  ackUserIdOccupied      := 0x06#8
  ackFingerprintOccupied := 0x07#8
  ackTimeout             := 0x08#8

end Sys2Proof.Machine
end

