-- ==== Sys2Proof/Machine/Checksum.lean ====
section
/-!
DEFINITION. The unit xor_checksum_gen (40_checksum.md): two combinational functions, no state (R134).
-/

namespace Sys2Proof.Machine

/-- `Chk(c, p1, p2, p3)` (R130): the XOR of offsets 1 to 5 of the provisional frame, whose offset 5 holds the
placeholder (R131, conflicts C1 and C3). -/
def chk (c p1 p2 p3 : Byte) : Byte :=
  c ^^^ p1 ^^^ p2 ^^^ p3 ^^^ params.placeholder

/-- `ChkVerify(f)` (R133): offset 5 against the XOR of offsets 1 to 4; offsets 0, 6 and 7 take no part. -/
def chkVerify (f : Frame) : Bool :=
  f[5] == f[1] ^^^ f[2] ^^^ f[3] ^^^ f[4]

end Sys2Proof.Machine
end

