-- ==== Sys2Proof/Syntax.lean ====
section
/-!
DEFINITION. The instructions: one constructor per row of spec/opcode_table.json, ten requests (format REQ8, R91, R99,
R100) and eight acknowledgments (format RSP8, R92, R101), with the operands the row leaves variable. The CHECKSUM of a
request is no operand (R98); every byte a response row leaves open is one.
-/

namespace Sys2Proof

/-- Which way a frame of a row travels: a request goes from the block to the peripheral, a response comes back. -/
inductive Direction where
  | request
  | response
  deriving DecidableEq, Repr

/-- One row of the opcode table with its operands. -/
inductive Instr where
  /-- ENROLL1 `uid, perm` (R212): command 0x01, form UP. -/
  | enroll1 (uid : Half) (perm : Byte)
  /-- ENROLL2 `uid, perm` (R213): command 0x02, form UP. -/
  | enroll2 (uid : Half) (perm : Byte)
  /-- ENROLL3 `uid, perm` (R214): command 0x03, form UP. -/
  | enroll3 (uid : Half) (perm : Byte)
  /-- DELUSER `uid` (R215): command 0x04, form U. -/
  | deluser (uid : Half)
  /-- DELALL (R216): command 0x05, form Z. -/
  | delall
  /-- COUNT (R217): command 0x09, form Z. -/
  | count
  /-- QPERM `uid` (R218): command 0x0A, form U. -/
  | qperm (uid : Half)
  /-- VERIFY11 `uid` (R219): command 0x0B, form U. -/
  | verify11 (uid : Half)
  /-- VERIFY1N (R220): command 0x0C, form Z. -/
  | verify1n
  /-- RAW `c, p1, p2, p3` (R221): the catch-all request. -/
  | raw (c p1 p2 p3 : Byte)
  /-- ACK_SUCCESS (R170): a response whose byte 4 is 0x00. -/
  | ackSuccess (echo q1 q2 chk rsv : Byte)
  /-- ACK_FAIL (R171): a response whose byte 4 is 0x01. -/
  | ackFail (echo q1 q2 chk rsv : Byte)
  /-- ACK_DATABASE_FULL (R172): a response whose byte 4 is 0x04. -/
  | ackDatabaseFull (echo q1 q2 chk rsv : Byte)
  /-- ACK_NO_USER (R173): a response whose byte 4 is 0x05. -/
  | ackNoUser (echo q1 q2 chk rsv : Byte)
  /-- ACK_USER_ID_OCCUPIED (R174): a response whose byte 4 is 0x06. -/
  | ackUserIdOccupied (echo q1 q2 chk rsv : Byte)
  /-- ACK_FINGERPRINT_OCCUPIED (R175): a response whose byte 4 is 0x07. -/
  | ackFingerprintOccupied (echo q1 q2 chk rsv : Byte)
  /-- ACK_TIMEOUT (R176): a response whose byte 4 is 0x08. -/
  | ackTimeout (echo q1 q2 chk rsv : Byte)
  /-- ACK_UNKNOWN (R177): a response whose byte 4, `q3`, is none of the seven named codes. -/
  | ackUnknown (echo q1 q2 q3 chk rsv : Byte)
  deriving DecidableEq, Repr

/-- The direction of an instruction's row ("direction" in the opcode table). -/
def Instr.direction : Instr → Direction
  | .enroll1 _ _ => .request
  | .enroll2 _ _ => .request
  | .enroll3 _ _ => .request
  | .deluser _ => .request
  | .delall => .request
  | .count => .request
  | .qperm _ => .request
  | .verify11 _ => .request
  | .verify1n => .request
  | .raw _ _ _ _ => .request
  | .ackSuccess _ _ _ _ _ => .response
  | .ackFail _ _ _ _ _ => .response
  | .ackDatabaseFull _ _ _ _ _ => .response
  | .ackNoUser _ _ _ _ _ => .response
  | .ackUserIdOccupied _ _ _ _ _ => .response
  | .ackFingerprintOccupied _ _ _ _ _ => .response
  | .ackTimeout _ _ _ _ _ => .response
  | .ackUnknown _ _ _ _ _ _ => .response

end Sys2Proof
end

