-- ==== Sys2Proof/Machine/Operands.lean ====
section
/-!
DEFINITION. The operand forms of a request (30_encoding.md R94 to R99, R107) and the byte-order helpers: how a 16-bit
value is split over two bytes and joined again, and how a frame is packed into a word.
-/

namespace Sys2Proof.Machine

/-- Bits 15..8 of a 16-bit value: the byte at the lower offset (R67, R94). -/
def highByte (v : Half) : Byte := v.extractLsb' 8 8

/-- Bits 7..0 of a 16-bit value: the byte at the higher offset (R67, R94). -/
def lowByte (v : Half) : Byte := v.extractLsb' 0 8

/-- `hi : lo`, the big-endian 16-bit value of two bytes (R9, R95). -/
def joinBytes (hi lo : Byte) : Half := hi ++ lo

/-- The four Encode inputs of a request (R140): what the host puts on `req_cmd`, `req_p1`, `req_p2`, `req_p3`. -/
structure Request where
  cmd : Byte
  p1  : Byte
  p2  : Byte
  p3  : Byte
  deriving DecidableEq, Repr

/-- Form UP: user id and permission (R99). -/
def formUP (cmd : Byte) (uid : Half) (perm : Byte) : Request :=
  ⟨cmd, highByte uid, lowByte uid, perm⟩

/-- Form U: user id, third parameter 0x00 (R97, R99). -/
def formU (cmd : Byte) (uid : Half) : Request :=
  ⟨cmd, highByte uid, lowByte uid, 0#8⟩

/-- Form Z: no operand, all parameters 0x00 (R97, R99). -/
def formZ (cmd : Byte) : Request :=
  ⟨cmd, 0#8, 0#8, 0#8⟩

/-- `BuildReq` (R211): the Encode inputs of a request, by the table of R107, with no check of any operand. A response
row is no request and has none. -/
def buildReq : Instr → Option Request
  | .enroll1 uid perm => some (formUP params.cmdEnroll1 uid perm)
  | .enroll2 uid perm => some (formUP params.cmdEnroll2 uid perm)
  | .enroll3 uid perm => some (formUP params.cmdEnroll3 uid perm)
  | .deluser uid => some (formU params.cmdDeleteUser uid)
  | .delall => some (formZ params.cmdDeleteAll)
  | .count => some (formZ params.cmdCount)
  | .qperm uid => some (formU params.cmdQueryPerm uid)
  | .verify11 uid => some (formU params.cmdVerify11 uid)
  | .verify1n => some (formZ params.cmdVerify1N)
  | .raw c p1 p2 p3 => some ⟨c, p1, p2, p3⟩
  | .ackSuccess _ _ _ _ _ => none
  | .ackFail _ _ _ _ _ => none
  | .ackDatabaseFull _ _ _ _ _ => none
  | .ackNoUser _ _ _ _ _ => none
  | .ackUserIdOccupied _ _ _ _ _ => none
  | .ackFingerprintOccupied _ _ _ _ _ => none
  | .ackTimeout _ _ _ _ _ => none
  | .ackUnknown _ _ _ _ _ _ => none

/-- The frame of a 64-bit word: byte `k` is `F[63-8k : 56-8k]` (R8). -/
def frameOfWord (w : FrameWord) : Frame :=
  #v[w.extractLsb' 56 8, w.extractLsb' 48 8, w.extractLsb' 40 8, w.extractLsb' 32 8,
     w.extractLsb' 24 8, w.extractLsb' 16 8, w.extractLsb' 8 8, w.extractLsb' 0 8]

/-- The 64-bit word of a frame, byte 0 in the high bits (R8); this is the packing of `tx_frame` (R44). -/
def wordOfFrame (f : Frame) : FrameWord :=
  f[0] ++ f[1] ++ f[2] ++ f[3] ++ f[4] ++ f[5] ++ f[6] ++ f[7]

end Sys2Proof.Machine
end

