-- ==== Sys2Proof/Machine/Framer.lean ====
section
/-!
DEFINITION. The unit packet_framer's pure function (41_framer.md R140, layout R91).
-/

namespace Sys2Proof.Machine

/-- `Encode(c, p1, p2, p3)` (R140): total, every operand value legal. -/
def encodeFrame (c p1 p2 p3 : Byte) : Frame :=
  #v[params.startByte, c, p1, p2, p3, chk c p1 p2 p3, params.reserved, params.endByte]

/-- `Encode` of a request's four inputs. -/
def Request.frame (r : Request) : Frame :=
  encodeFrame r.cmd r.p1 r.p2 r.p3

end Sys2Proof.Machine
end

