-- ==== Sys2Proof/Machine/Types.lean ====
section
/-!
DEFINITION. The typed results of R11, and the names of the block's phases and result-port values (R26, R34, R35).
-/

namespace Sys2Proof.Machine

/-- An acknowledgment code; `unknown` carries the exact byte (R11, R159). -/
inductive AckCode where
  | success
  | fail
  | databaseFull
  | noUser
  | userIdOccupied
  | fingerprintOccupied
  | timeout
  | unknown (b : Byte)
  deriving DecidableEq, Repr

/-- What the transport could not do (R11, R241). -/
inductive IoCause where
  | writeFailed
  | readTimeout
  | readFailed
  deriving DecidableEq, Repr

/-- The two errors of the block (R240). -/
inductive BlockError where
  | malformedFrame
  | ioError (cause : IoCause)
  deriving DecidableEq, Repr

/-- The decoded struct: response bytes 1 to 6 in that order (R11, R160). -/
structure Decoded where
  cmdEcho : Byte
  q1      : Byte
  q2      : Byte
  q3      : Byte
  chk     : Byte
  rsv     : Byte
  deriving DecidableEq, Repr

/-- The outcome of `Decode` (R11, R155). -/
inductive DecodeResult where
  | ok (d : Decoded)
  | malformed
  deriving DecidableEq, Repr

/-- The outcome of `Exchange` (R11, R185). -/
inductive ExchResult where
  | frame (f : Frame)
  | ioError (cause : IoCause)
  deriving DecidableEq, Repr

/-- What an operation returns for a well-formed response (the first six forms of R11's OpResult). -/
inductive OpValue where
  | status (a : AckCode)
  | noMatch
  | noFinger
  | matched (uid : Half) (perm : Byte)
  | userCount (n : Half)
  | permission (level : Byte)
  deriving DecidableEq, Repr

/-- The result of an operation (R11): a value, or `OpErr`. -/
inductive OpResult where
  | done (v : OpValue)
  | opErr (e : BlockError)
  deriving DecidableEq, Repr

/-- Where the block is in the exchange (R26); encoding 3 is unused, so there is no fourth constructor (U14). -/
inductive Phase where
  | idle
  | tx
  | rx
  deriving DecidableEq, Repr

/-- `res_kind` (R34). -/
inductive ResKind where
  | none
  | ok
  | malformed
  | ioErr
  deriving DecidableEq, Repr

/-- `res_io_cause` (R35). -/
inductive ResIoCause where
  | none
  | writeFailed
  | readTimeout
  | readFailed
  deriving DecidableEq, Repr

end Sys2Proof.Machine
end

