-- ==== Sys2Proof/Machine/Decoder.lean ====
section
/-!
DEFINITION. The unit serial_protocol_decoder's pure functions (42_decoder.md R155, R159, R165): total and without effect
(R162).
-/

namespace Sys2Proof.Machine

/-- The response bytes 1 to 6 of a frame, kept raw (R155, R160). -/
def captured (f : Frame) : Decoded :=
  ⟨f[1], f[2], f[3], f[4], f[5], f[6]⟩

/-- `Decode(buf)` (R155): length, then the two sentinels, nothing else (R156 to R158, R161, R163). -/
def decodeBuf : List Byte → DecodeResult
  | [b0, b1, b2, b3, b4, b5, b6, b7] =>
    if b0 = params.startByte ∧ b7 = params.endByte then .ok ⟨b1, b2, b3, b4, b5, b6⟩ else .malformed
  | _ => .malformed

/-- `Classify(b)` (R159, R170 to R177). -/
def classify (b : Byte) : AckCode :=
  if b = params.ackSuccess then .success
  else if b = params.ackFail then .fail
  else if b = params.ackDatabaseFull then .databaseFull
  else if b = params.ackNoUser then .noUser
  else if b = params.ackUserIdOccupied then .userIdOccupied
  else if b = params.ackFingerprintOccupied then .fingerprintOccupied
  else if b = params.ackTimeout then .timeout
  else .unknown b

/-- The port code of a class (`res_ack_class`, R37). -/
def AckCode.portCode : AckCode → BitVec 3
  | .success => 0#3
  | .fail => 1#3
  | .databaseFull => 2#3
  | .noUser => 3#3
  | .userIdOccupied => 4#3
  | .fingerprintOccupied => 5#3
  | .timeout => 6#3
  | .unknown _ => 7#3

/-- `U16(d) = d.q1 : d.q2` (R165). -/
def u16 (d : Decoded) : Half := joinBytes d.q1 d.q2

end Sys2Proof.Machine
end

