-- ==== Sys2Proof/Machine/Interpret.lean ====
section
/-!
DEFINITION. The operation layer's response side (44_operations.md R210): what a response means for the command that was
sent. The overloaded byte 4 is reproduced as the document states it (R218, R220, conflict C6).
-/

namespace Sys2Proof.Machine

/-- `Interpret(c, Ok(d))` (R210): keyed by the command sent, never by `cmd_echo` (R225). -/
def interpretOk (c : Byte) (d : Decoded) : OpValue :=
  if c = params.cmdCount then
    if classify d.q3 = .success then .userCount (u16 d) else .status (classify d.q3)
  else if c = params.cmdQueryPerm then
    if classify d.q3 = .noUser then .status .noUser else .permission d.q3
  else if c = params.cmdVerify1N then
    if classify d.q3 = .noUser then .noMatch
    else if classify d.q3 = .timeout then .noFinger
    else .matched (u16 d) d.q3
  else .status (classify d.q3)

/-- The port code of an operation value (`res_op_kind`, R38); 6 and 7 are unused. -/
def OpValue.portCode : OpValue → BitVec 3
  | .status _ => 0#3
  | .noMatch => 1#3
  | .noFinger => 2#3
  | .matched _ _ => 3#3
  | .userCount _ => 4#3
  | .permission _ => 5#3

/-- The outcome of an exchange at the ports (R185, R190, R197): the decoded frame or the one error. -/
def exchangeOutcome : ExchResult → DecodeResult ⊕ IoCause
  | .frame f => .inl (decodeBuf f.toList)
  | .ioError cause => .inr cause

/-- `Interpret(c, r)` (R210): errors pass through, a well-formed response is read by the command. -/
def interpret (c : Byte) : DecodeResult ⊕ IoCause → OpResult
  | .inr cause => .opErr (.ioError cause)
  | .inl .malformed => .opErr .malformedFrame
  | .inl (.ok d) => .done (interpretOk c d)

end Sys2Proof.Machine
end

