-- ==== Sys2Proof/Machine/State.lean ====
section
/-!
DEFINITION. The state of the machine as plain data: the architectural state of the block (10_state.md R20), the two byte
channels (R42, R62, R63), what host and environment do next (R45, R276) and the counter of free values (log entry 2).
-/

namespace Sys2Proof.Machine

/-- The outputs of the block (R44). -/
inductive OutPort where
  | reqReady
  | decReady
  | txValid
  | txByte
  | rxReady
  | busy
  | txFrame
  | resValid
  | resKind
  | resIoCause
  | resCmdEcho
  | resQ1
  | resQ2
  | resQ3
  | resChk
  | resRsv
  | resU16
  | resAckClass
  | resChkOk
  | resOpValid
  | resOpKind
  deriving DecidableEq, Repr

/-- What the input pins show at one rising clock edge (R44). `rx_byte` is not a field: it is the oldest byte waiting in the
RX channel (R63; log entry 6). -/
structure Pins where
  rst       : Bool := false
  reqValid  : Bool := false
  request   : Request := ⟨0#8, 0#8, 0#8, 0#8⟩
  decPush   : Bool := false
  decByte   : Byte := 0#8
  decClose  : Bool := false
  txReady   : Bool := false
  txFail    : Bool := false
  rxValid   : Bool := false
  rxTimeout : Bool := false
  rxFail    : Bool := false
  deriving DecidableEq, Repr

/-- One move of the host or the environment (R10, R276; log entry 1). -/
inductive Input where
  /-- One clock edge with these pins (R45). -/
  | edge (p : Pins)
  /-- The peripheral's byte enters the RX channel (R63); no step of the block. -/
  | arrive (b : Byte)
  /-- The peripheral's whole response frame arrives and the transport offers eight bytes (log entry 7). -/
  | response (w : FrameWord)
  /-- Somebody reads an output; the block does nothing (R71, R276). -/
  | sample (port : OutPort)
  deriving DecidableEq, Repr

/-- The fields of the result register that the spec leaves unspecified together (R36, R37, R32, R38, R250). -/
structure ResData where
  cmdEcho  : Byte
  q1       : Byte
  q2       : Byte
  q3       : Byte
  chk      : Byte
  rsv      : Byte
  u16      : Half
  ackClass : BitVec 3
  chkOk    : Bool
  opKind   : BitVec 3
  deriving DecidableEq, Repr

/-- The state of the machine. -/
structure State where
  /-- `tx_buf[0..7]` (R21) -/
  txBuf      : Frame
  /-- `tx_idx` (R24) -/
  txIdx      : BitVec 4
  /-- `rx_buf[0..7]` (R22) -/
  rxBuf      : Frame
  /-- `rx_cnt` (R25) -/
  rxCnt      : BitVec 4
  /-- `phase` (R26) -/
  phase      : Phase
  /-- `res_valid` (R31) -/
  resValid   : Bool
  /-- `res_kind` (R34) -/
  resKind    : ResKind
  /-- `res_io_cause` (R35) -/
  resIoCause : ResIoCause
  /-- `res_op_valid` (R38) -/
  resOpValid : Bool
  /-- the other `res_*` fields (R36, R37, R32, R38) -/
  resData    : ResData
  /-- TX channel: every byte handed over so far, in order (R62; log entry 13) -/
  txSent     : List Byte
  /-- RX channel: bytes delivered and not yet taken, oldest first (R63) -/
  rxChan     : List Byte
  /-- the moves of host and environment to come, soonest first (log entry 1) -/
  inputs     : List Input
  /-- how many free values have been drawn (log entry 2) -/
  fresh      : Nat
  deriving DecidableEq, Repr

/-- Why the machine stops. The block itself never does: its errors are recorded in the result register (R250). -/
inductive Fault where
  /-- Raised by the step that samples a result field unspecified for the result at hand: R39 calls such a read a modelling
  fault, and U10 has a model fault on it. Safe: hardware shows some value there. -/
  | noValue (port : OutPort)
  deriving DecidableEq, Repr

/-- Why the machine has no meaning for an instruction. -/
inductive Refusal where
  /-- Raised by an arm of `exec` whose instruction has no meaning yet; no arm is such an arm. Safe. -/
  | notModelled (mnemonic : String)
  deriving DecidableEq, Repr

/-- The machine right after reset (R46, R272). The data registers, unspecified in R46, are zero, the channels and the list
of moves are empty: DESIGN CHOICE, unsafe (log entries 3 and 5). -/
def State.reset : State where
  txBuf      := #v[0#8, 0#8, 0#8, 0#8, 0#8, 0#8, 0#8, 0#8]
  txIdx      := 0#4
  rxBuf      := #v[0#8, 0#8, 0#8, 0#8, 0#8, 0#8, 0#8, 0#8]
  rxCnt      := 0#4
  phase      := .idle
  resValid   := false
  resKind    := .none
  resIoCause := .none
  resOpValid := false
  resData    := ⟨0#8, 0#8, 0#8, 0#8, 0#8, 0#8, 0#16, 0#3, false, 0#3⟩
  txSent     := []
  rxChan     := []
  inputs     := []
  fresh      := 0

end Sys2Proof.Machine
end

