-- ==== Sys2Proof/Machine/Ops.lean ====
section
/-!
DEFINITION. The named operations of the machine: free values, the byte channels, the steps of framer, decoder and exchange
sequencer, and the one error entry (41_framer.md R141, R142; 42_decoder.md R166, R167; 43_exchange.md; 60_exceptions.md
R250).
-/

namespace Sys2Proof.Machine

/-! ### The channels and the moves to come -/

/-- The moves still to come. -/
def setInputs (ms : List Input) (s : State) : State :=
  { s with inputs := ms }

/-- The bytes waiting in the RX channel. -/
def setRxChan (bytes : List Byte) (s : State) : State :=
  { s with rxChan := bytes }

/-! ### Free values -/

/-- Result data the spec calls unspecified: ten free values drawn at `n` (R39, U10; log entry 2). -/
def freeResData (n : Nat) : ResData :=
  ⟨Config.freeByte n, Config.freeByte (n + 1), Config.freeByte (n + 2), Config.freeByte (n + 3),
   Config.freeByte (n + 4), Config.freeByte (n + 5), Config.freeHalf n, Config.freeCode n, Config.freeBit n,
   Config.freeCode (n + 1)⟩

/-- Eight register bytes the spec calls unspecified, drawn at `n` (R46; log entry 4). -/
def freeFrame (n : Nat) : Frame :=
  #v[Config.freeByte n, Config.freeByte (n + 1), Config.freeByte (n + 2), Config.freeByte (n + 3),
     Config.freeByte (n + 4), Config.freeByte (n + 5), Config.freeByte (n + 6), Config.freeByte (n + 7)]

/-- All result data fields become unspecified (R141, R167, R250). -/
def forgetData (s : State) : State :=
  { s with resData := freeResData s.fresh, fresh := s.fresh + 6 }

/-! ### Reset -/

/-- An edge with `rst = 1` (R270, R271): the control state of R46, every data register unspecified, the channels
untouched. -/
def applyRst (s : State) : State :=
  { forgetData s with
    txBuf      := freeFrame (s.fresh + 6)
    rxBuf      := freeFrame (s.fresh + 14)
    txIdx      := 0#4
    rxCnt      := 0#4
    phase      := .idle
    resValid   := false
    resKind    := .none
    resIoCause := .none
    resOpValid := false
    fresh      := s.fresh + 22 }

/-! ### Error entry -/

/-- The error entry of R250, the block's only "exception": recorded in the result register, the block idle again, every
other result field unspecified. Nothing is saved and no handler is entered; there is no return (R252). -/
def enterError (kind : ResKind) (cause : ResIoCause) (fromExchange : Bool) (s : State) : State :=
  { forgetData s with
    resKind    := kind
    resIoCause := cause
    resOpValid := fromExchange
    resValid   := true
    rxCnt      := 0#4
    phase      := .idle }

/-- `raise IoError(cause)` (R191 to R193, R241): only an exchange can raise it. -/
def raiseIoError (cause : IoCause) (s : State) : State :=
  match cause with
  | .writeFailed => enterError .ioErr .writeFailed true s
  | .readTimeout => enterError .ioErr .readTimeout true s
  | .readFailed => enterError .ioErr .readFailed true s

/-- `raise MalformedFrame` (R242), in an exchange or a standalone decode. -/
def raiseMalformed (fromExchange : Bool) (s : State) : State :=
  enterError .malformed .none fromExchange s

/-! ### packet_framer -/

/-- The issue step (R141), in phase IDLE: the frame is loaded whole, the old result is cleared. -/
def issue (r : Request) (s : State) : State :=
  { forgetData s with
    txBuf      := r.frame
    txIdx      := 0#4
    rxCnt      := 0#4
    resValid   := false
    resKind    := .none
    resIoCause := .none
    resOpValid := false
    phase      := .tx }

/-- A request offered by the host: the issue step in phase IDLE, no effect while busy (R186, R30). -/
def offerRequest (r : Request) (s : State) : State :=
  match s.phase with
  | .idle => issue r s
  | .tx => s
  | .rx => s

/-- `ChanWrite(b)` (R62): the byte belongs to the environment from here on. -/
def chanWrite (b : Byte) (s : State) : State :=
  { s with txSent := s.txSent ++ [b] }

/-- The TX byte step (R142): the byte at `tx_idx` goes out; the one at offset 7 also starts phase RX (R188). It is enabled
only while `tx_idx < 8`. -/
def sendByte (s : State) : State :=
  if h : s.txIdx.toNat < 8 then
    { chanWrite s.txBuf[s.txIdx.toNat] s with
      txIdx := s.txIdx + 1#4
      phase := if s.txIdx + 1#4 = 8#4 then .rx else s.phase }
  else s

/-! ### serial_protocol_decoder -/

/-- `min(rx_cnt + 1, 9)` (R25, R169). -/
def countUp (n : BitVec 4) : BitVec 4 :=
  BitVec.ofNat 4 (min (n.toNat + 1) 9)

/-- The buffer is a well-formed frame: exactly 8 bytes pushed, both sentinels right (R167, R156, R157). -/
def bufferGood (s : State) : Bool :=
  s.rxCnt == 8#4 && s.rxBuf[0] == params.startByte && s.rxBuf[7] == params.endByte

/-- The data fields the close step writes for a well-formed frame (R167): the raw bytes, their views and the advisory
flag. -/
def frameData (f : Frame) (opKind : BitVec 3) : ResData :=
  ⟨f[1], f[2], f[3], f[4], f[5], f[6], joinBytes f[2] f[3], (classify f[4]).portCode, chkVerify f, opKind⟩

/-- The close step on a well-formed frame in an exchange: `res_op_kind` is the kind of `Interpret(tx_buf[1], …)`
(R167, R210). -/
def recordExchange (s : State) : State :=
  { s with
    resData    := frameData s.rxBuf (interpretOk s.txBuf[1] (captured s.rxBuf)).portCode
    resKind    := .ok
    resIoCause := .none
    resOpValid := true
    resValid   := true
    rxCnt      := 0#4
    phase      := .idle }

/-- The close step on a well-formed standalone buffer: no command, so `res_op_kind` is unspecified (R167, R222; log
entry 16). -/
def recordStandalone (s : State) : State :=
  { s with
    resData    := frameData s.rxBuf (Config.freeCode s.fresh)
    resKind    := .ok
    resIoCause := .none
    resOpValid := false
    resValid   := true
    rxCnt      := 0#4
    fresh      := s.fresh + 1 }

/-- The close step of an exchange (R167 (a), R190). -/
def closeExchange (s : State) : State :=
  if bufferGood s then recordExchange s else raiseMalformed true s

/-- The close step of a standalone buffer (R167 (b), R168). -/
def closeStandalone (s : State) : State :=
  if bufferGood s then recordStandalone s else raiseMalformed false s

/-- The storing half of the push step (R166): bytes beyond the eighth are counted, not stored. -/
def storeByte (b : Byte) (s : State) : State :=
  { s with rxBuf := s.rxBuf.setIfInBounds s.rxCnt.toNat b, rxCnt := countUp s.rxCnt }

/-- The push step of an exchange (R166, R189): the eighth byte closes in the same step (R190). -/
def pushExchange (b : Byte) (s : State) : State :=
  if (storeByte b s).rxCnt = 8#4 then closeExchange (storeByte b s) else storeByte b s

/-- The push step of a standalone buffer (R166, R168): it never closes. -/
def pushStandalone (b : Byte) (s : State) : State :=
  storeByte b s

/-! ### RX channel -/

/-- A byte of the peripheral enters the RX channel (R63). -/
def arriveByte (b : Byte) (s : State) : State :=
  setRxChan (s.rxChan ++ [b]) s

/-- The transport offers its oldest byte: taken in phase RX (`ChanRead()` and the push step, R63, R189), left waiting
otherwise (R143). -/
def offerByte (s : State) : State :=
  match s.phase, s.rxChan with
  | .rx, b :: rest => pushExchange b (setRxChan rest s)
  | .rx, [] => s
  | .idle, _ => s
  | .tx, _ => s

/-- The transport offers up to `n` bytes, one after another. -/
def offerBytes : Nat → State → State
  | 0, s => s
  | n + 1, s => offerBytes n (offerByte s)

/-- A whole frame of the peripheral arrives behind the bytes already waiting, and the transport offers eight bytes
(log entry 7). -/
def receiveFrame (f : Frame) (s : State) : State :=
  offerBytes 8 (setRxChan (s.rxChan ++ f.toList) s)

end Sys2Proof.Machine
end

