-- ==== Sys2Proof/Machine/Request.lean ====
section
/-!
DEFINITION. The meanings of the ten request rows (44_operations.md R212 to R221). A request is offered at the request port
with `BuildReq`'s four bytes (R211): in phase IDLE it is the issue step (R141), while busy it is not accepted and nothing
changes (R186). The rest of the exchange runs in later steps: eight TX byte steps (R142), eight push steps (R166) and the
close step, which interprets the response by the command latched in `tx_buf[1]` (R167, R210).
-/

namespace Sys2Proof.Machine

/-- ENROLL1 (R212): command 0x01, form UP. -/
def execEnroll1 (uid : Half) (perm : Byte) (s : State) : Host.Outcome State Fault Refusal :=
  .next (offerRequest (formUP params.cmdEnroll1 uid perm) s)

/-- ENROLL2 (R213): command 0x02, form UP. -/
def execEnroll2 (uid : Half) (perm : Byte) (s : State) : Host.Outcome State Fault Refusal :=
  .next (offerRequest (formUP params.cmdEnroll2 uid perm) s)

/-- ENROLL3 (R214): command 0x03, form UP. -/
def execEnroll3 (uid : Half) (perm : Byte) (s : State) : Host.Outcome State Fault Refusal :=
  .next (offerRequest (formUP params.cmdEnroll3 uid perm) s)

/-- DELUSER (R215): command 0x04, form U. -/
def execDeluser (uid : Half) (s : State) : Host.Outcome State Fault Refusal :=
  .next (offerRequest (formU params.cmdDeleteUser uid) s)

/-- DELALL (R216): command 0x05, form Z. -/
def execDelall (s : State) : Host.Outcome State Fault Refusal :=
  .next (offerRequest (formZ params.cmdDeleteAll) s)

/-- COUNT (R217): command 0x09, form Z. -/
def execCount (s : State) : Host.Outcome State Fault Refusal :=
  .next (offerRequest (formZ params.cmdCount) s)

/-- QPERM (R218): command 0x0A, form U. -/
def execQperm (uid : Half) (s : State) : Host.Outcome State Fault Refusal :=
  .next (offerRequest (formU params.cmdQueryPerm uid) s)

/-- VERIFY11 (R219): command 0x0B, form U. -/
def execVerify11 (uid : Half) (s : State) : Host.Outcome State Fault Refusal :=
  .next (offerRequest (formU params.cmdVerify11 uid) s)

/-- VERIFY1N (R220): command 0x0C, form Z. -/
def execVerify1n (s : State) : Host.Outcome State Fault Refusal :=
  .next (offerRequest (formZ params.cmdVerify1N) s)

/-- RAW (R221): any four bytes, the command unnamed or not (R102). -/
def execRaw (c p1 p2 p3 : Byte) (s : State) : Host.Outcome State Fault Refusal :=
  .next (offerRequest ⟨c, p1, p2, p3⟩ s)

end Sys2Proof.Machine
end

