-- ==== Sys2Proof/WellFormed.lean ====
section
/-!
DEFINITION. Which terms of Instr are rows of the table: the two catch-all rows, RAW and ACK_UNKNOWN, are tried last
(R93), so their operands must not make one of the rows before them. Every operand value of the other sixteen rows is legal
(R94, R96, R102, R104).
-/

namespace Sys2Proof

/-- Some named request row makes the frame of these four bytes (R99, R100): the form's fixed parameters are zero. -/
def namedRequest (c p1 p2 p3 : Byte) : Bool :=
  (c == Machine.params.cmdEnroll1 || c == Machine.params.cmdEnroll2 || c == Machine.params.cmdEnroll3) ||
  ((c == Machine.params.cmdDeleteUser || c == Machine.params.cmdQueryPerm || c == Machine.params.cmdVerify11)
    && p3 == 0#8) ||
  ((c == Machine.params.cmdDeleteAll || c == Machine.params.cmdCount || c == Machine.params.cmdVerify1N)
    && p1 == 0#8 && p2 == 0#8 && p3 == 0#8)

/-- Byte 4 of a response is one of the seven named acknowledgment codes (R101). -/
def namedAck (q3 : Byte) : Bool :=
  q3 == Machine.params.ackSuccess || q3 == Machine.params.ackFail || q3 == Machine.params.ackDatabaseFull ||
  q3 == Machine.params.ackNoUser || q3 == Machine.params.ackUserIdOccupied ||
  q3 == Machine.params.ackFingerprintOccupied || q3 == Machine.params.ackTimeout

/-- The term is a row of the table with operands that row can have. -/
def Instr.wellFormed : Instr → Bool
  | .raw c p1 p2 p3 => !namedRequest c p1 p2 p3
  | .ackUnknown _ _ _ q3 _ _ => !namedAck q3
  | .enroll1 _ _ => true
  | .enroll2 _ _ => true
  | .enroll3 _ _ => true
  | .deluser _ => true
  | .delall => true
  | .count => true
  | .qperm _ => true
  | .verify11 _ => true
  | .verify1n => true
  | .ackSuccess _ _ _ _ _ => true
  | .ackFail _ _ _ _ _ => true
  | .ackDatabaseFull _ _ _ _ _ => true
  | .ackNoUser _ _ _ _ _ => true
  | .ackUserIdOccupied _ _ _ _ _ => true
  | .ackFingerprintOccupied _ _ _ _ _ => true
  | .ackTimeout _ _ _ _ _ => true

end Sys2Proof
end

