-- ==== Sys2Proof/Decode.lean ====
section
/-!
DEFINITION. The opcode table as a decoder and an encoder (30_encoding.md R91 to R93, R99 to R104). The decoder is total on
any bytes and rejects by name; the rows are tried in the table's order, the catch-alls last (R93).
-/

namespace Sys2Proof

/-- Why bytes are no row of the table in the given direction. -/
inductive DecodeReject where
  /-- Not exactly 8 bytes (R90, R156). -/
  | wrongLength
  /-- Offset 0 is not START (R92, R157). -/
  | badStart
  /-- Offset 7 is not END (R92, R157). -/
  | badEnd
  /-- A request's offset 6 is not 0x00 (R91, R104); a response's is never looked at. -/
  | badReserved
  deriving DecidableEq, Repr

open Machine

/-- The request row of four Encode inputs: the nine named rows first, then RAW (R93, R99, R100, R102). Total: every
command byte is legal. -/
def requestInstr (c p1 p2 p3 : Byte) : Instr :=
  if c = params.cmdEnroll1 then .enroll1 (joinBytes p1 p2) p3
  else if c = params.cmdEnroll2 then .enroll2 (joinBytes p1 p2) p3
  else if c = params.cmdEnroll3 then .enroll3 (joinBytes p1 p2) p3
  else if c = params.cmdDeleteUser ∧ p3 = 0#8 then .deluser (joinBytes p1 p2)
  else if c = params.cmdDeleteAll ∧ p1 = 0#8 ∧ p2 = 0#8 ∧ p3 = 0#8 then .delall
  else if c = params.cmdCount ∧ p1 = 0#8 ∧ p2 = 0#8 ∧ p3 = 0#8 then .count
  else if c = params.cmdQueryPerm ∧ p3 = 0#8 then .qperm (joinBytes p1 p2)
  else if c = params.cmdVerify11 ∧ p3 = 0#8 then .verify11 (joinBytes p1 p2)
  else if c = params.cmdVerify1N ∧ p1 = 0#8 ∧ p2 = 0#8 ∧ p3 = 0#8 then .verify1n
  else .raw c p1 p2 p3

/-- The rows whose CHECKSUM byte depends on a variable field have it masked out (R93): forms UP, U and RAW, and every
response. The rows of form Z have it fixed. -/
def checksumMasked : Instr → Bool
  | .enroll1 _ _ => true
  | .enroll2 _ _ => true
  | .enroll3 _ _ => true
  | .deluser _ => true
  | .delall => false
  | .count => false
  | .qperm _ => true
  | .verify11 _ => true
  | .verify1n => false
  | .raw _ _ _ _ => true
  | .ackSuccess _ _ _ _ _ => true
  | .ackFail _ _ _ _ _ => true
  | .ackDatabaseFull _ _ _ _ _ => true
  | .ackNoUser _ _ _ _ _ => true
  | .ackUserIdOccupied _ _ _ _ _ => true
  | .ackFingerprintOccupied _ _ _ _ _ => true
  | .ackTimeout _ _ _ _ _ => true
  | .ackUnknown _ _ _ _ _ _ => true

/-- A frame with its checksum byte as a request has it (R91). -/
def requestChecksum (f : Frame) : Bool :=
  f[5] == chk f[1] f[2] f[3] f[4]

/-- The request row of a frame (format REQ8), by the table's match and mask (R93): a frame that a form Z row would match but
for its CHECKSUM is left to the catch-all RAW. -/
def decodeRequest (f : Frame) : Except DecodeReject Instr :=
  if f[0] ≠ params.startByte then .error .badStart
  else if f[7] ≠ params.endByte then .error .badEnd
  else if f[6] ≠ params.reserved then .error .badReserved
  else if checksumMasked (requestInstr f[1] f[2] f[3] f[4]) || requestChecksum f then
    .ok (requestInstr f[1] f[2] f[3] f[4])
  else .ok (.raw f[1] f[2] f[3] f[4])

/-- The response row of a frame's six inner bytes: byte 4 decides (R101, R159, R170 to R177). -/
def responseInstr (d : Decoded) : Instr :=
  match classify d.q3 with
  | .success => .ackSuccess d.cmdEcho d.q1 d.q2 d.chk d.rsv
  | .fail => .ackFail d.cmdEcho d.q1 d.q2 d.chk d.rsv
  | .databaseFull => .ackDatabaseFull d.cmdEcho d.q1 d.q2 d.chk d.rsv
  | .noUser => .ackNoUser d.cmdEcho d.q1 d.q2 d.chk d.rsv
  | .userIdOccupied => .ackUserIdOccupied d.cmdEcho d.q1 d.q2 d.chk d.rsv
  | .fingerprintOccupied => .ackFingerprintOccupied d.cmdEcho d.q1 d.q2 d.chk d.rsv
  | .timeout => .ackTimeout d.cmdEcho d.q1 d.q2 d.chk d.rsv
  | .unknown b => .ackUnknown d.cmdEcho d.q1 d.q2 b d.chk d.rsv

/-- The response row of a frame (format RSP8): only the sentinels can be wrong (R104). -/
def decodeResponse (f : Frame) : Except DecodeReject Instr :=
  if f[0] ≠ params.startByte then .error .badStart
  else if f[7] ≠ params.endByte then .error .badEnd
  else .ok (responseInstr (captured f))

/-- The row of a buffer of any length, read in the given direction. -/
def decode (dir : Direction) : List Byte → Except DecodeReject Instr
  | [b0, b1, b2, b3, b4, b5, b6, b7] =>
    match dir with
    | .request => decodeRequest #v[b0, b1, b2, b3, b4, b5, b6, b7]
    | .response => decodeResponse #v[b0, b1, b2, b3, b4, b5, b6, b7]
  | _ => .error .wrongLength

/-- A response frame with the given byte 4 (R92). -/
def responseFrame (echo q1 q2 q3 chkByte rsv : Byte) : Frame :=
  #v[params.startByte, echo, q1, q2, q3, chkByte, rsv, params.endByte]

/-- The frame of an instruction: for a request the frame the framer sends for it (R107, R140), for a response its eight
bytes (R92, R101). -/
def encode : Instr → Frame
  | .enroll1 uid perm => (formUP params.cmdEnroll1 uid perm).frame
  | .enroll2 uid perm => (formUP params.cmdEnroll2 uid perm).frame
  | .enroll3 uid perm => (formUP params.cmdEnroll3 uid perm).frame
  | .deluser uid => (formU params.cmdDeleteUser uid).frame
  | .delall => (formZ params.cmdDeleteAll).frame
  | .count => (formZ params.cmdCount).frame
  | .qperm uid => (formU params.cmdQueryPerm uid).frame
  | .verify11 uid => (formU params.cmdVerify11 uid).frame
  | .verify1n => (formZ params.cmdVerify1N).frame
  | .raw c p1 p2 p3 => encodeFrame c p1 p2 p3
  | .ackSuccess e q1 q2 k r => responseFrame e q1 q2 params.ackSuccess k r
  | .ackFail e q1 q2 k r => responseFrame e q1 q2 params.ackFail k r
  | .ackDatabaseFull e q1 q2 k r => responseFrame e q1 q2 params.ackDatabaseFull k r
  | .ackNoUser e q1 q2 k r => responseFrame e q1 q2 params.ackNoUser k r
  | .ackUserIdOccupied e q1 q2 k r => responseFrame e q1 q2 params.ackUserIdOccupied k r
  | .ackFingerprintOccupied e q1 q2 k r => responseFrame e q1 q2 params.ackFingerprintOccupied k r
  | .ackTimeout e q1 q2 k r => responseFrame e q1 q2 params.ackTimeout k r
  | .ackUnknown e q1 q2 q3 k r => responseFrame e q1 q2 q3 k r

/-- The frame of a table word. The table writes a row as one 64-bit word with offset 0 in bits 63..56 (R8), so the first
word is the whole instruction and the bits above `nbits` are 0 (log entry 10). -/
def tableFrame (nbits w : Nat) : Frame :=
  frameOfWord (BitVec.ofNat 64 (w % 2 ^ nbits))

/-- A word of unknown direction is read as a request if it is of a named row, or a frame that RAW can produce (log entry
9). -/
def readsAsRequest (i : Instr) (f : Frame) : Bool :=
  match i with
  | .enroll1 _ _ => true
  | .enroll2 _ _ => true
  | .enroll3 _ _ => true
  | .deluser _ => true
  | .delall => true
  | .count => true
  | .qperm _ => true
  | .verify11 _ => true
  | .verify1n => true
  | .raw _ _ _ _ => requestChecksum f
  | .ackSuccess _ _ _ _ _ => false
  | .ackFail _ _ _ _ _ => false
  | .ackDatabaseFull _ _ _ _ _ => false
  | .ackNoUser _ _ _ _ _ => false
  | .ackUserIdOccupied _ _ _ _ _ => false
  | .ackFingerprintOccupied _ _ _ _ _ => false
  | .ackTimeout _ _ _ _ _ => false
  | .ackUnknown _ _ _ _ _ _ => false

/-- The response row of a frame of unknown direction, if it is one. -/
def responseOf (f : Frame) : Option Instr :=
  match decodeResponse f with
  | .ok i => some i
  | .error _ => none

/-- The row of a table word, which carries no direction: the named request rows, then RAW with the checksum R91 gives it,
then the response rows (log entry 9). A frame has exactly 64 bits (R90), so a wider word is no instruction. -/
def decodeTableWord (nbits w : Nat) : Option Instr :=
  if 64 < nbits then none
  else
    match decodeRequest (tableFrame nbits w) with
    | .ok i => if readsAsRequest i (tableFrame nbits w) then some i else responseOf (tableFrame nbits w)
    | .error _ => responseOf (tableFrame nbits w)

end Sys2Proof
end

