-- ==== Sys2Proof/Machine/Response.lean ====
section
/-!
DEFINITION. The meanings of the eight acknowledgment rows (42_decoder.md R170 to R177). The response frame arrives from the
peripheral: in phase RX its bytes are taken by push steps, the eighth closing the exchange (R189, R190) with byte 4
classified (R159) and read by the command sent (R210); outside phase RX they wait in the RX channel (R63, R143). None is an
error of the block (R224, R243, R244). Stale bytes come first (R69, R284).
-/

namespace Sys2Proof.Machine

/-- ACK_SUCCESS (R170): a response whose byte 4 is 0x00. -/
def execAckSuccess (echo q1 q2 chkByte rsv : Byte) (s : State) : Host.Outcome State Fault Refusal :=
  .next (receiveFrame (responseFrame echo q1 q2 params.ackSuccess chkByte rsv) s)

/-- ACK_FAIL (R171): a response whose byte 4 is 0x01. -/
def execAckFail (echo q1 q2 chkByte rsv : Byte) (s : State) : Host.Outcome State Fault Refusal :=
  .next (receiveFrame (responseFrame echo q1 q2 params.ackFail chkByte rsv) s)

/-- ACK_DATABASE_FULL (R172): a response whose byte 4 is 0x04. -/
def execAckDatabaseFull (echo q1 q2 chkByte rsv : Byte) (s : State) : Host.Outcome State Fault Refusal :=
  .next (receiveFrame (responseFrame echo q1 q2 params.ackDatabaseFull chkByte rsv) s)

/-- ACK_NO_USER (R173): a response whose byte 4 is 0x05. -/
def execAckNoUser (echo q1 q2 chkByte rsv : Byte) (s : State) : Host.Outcome State Fault Refusal :=
  .next (receiveFrame (responseFrame echo q1 q2 params.ackNoUser chkByte rsv) s)

/-- ACK_USER_ID_OCCUPIED (R174): a response whose byte 4 is 0x06. -/
def execAckUserIdOccupied (echo q1 q2 chkByte rsv : Byte) (s : State) : Host.Outcome State Fault Refusal :=
  .next (receiveFrame (responseFrame echo q1 q2 params.ackUserIdOccupied chkByte rsv) s)

/-- ACK_FINGERPRINT_OCCUPIED (R175): a response whose byte 4 is 0x07. -/
def execAckFingerprintOccupied (echo q1 q2 chkByte rsv : Byte) (s : State) : Host.Outcome State Fault Refusal :=
  .next (receiveFrame (responseFrame echo q1 q2 params.ackFingerprintOccupied chkByte rsv) s)

/-- ACK_TIMEOUT (R176): a response whose byte 4 is 0x08. -/
def execAckTimeout (echo q1 q2 chkByte rsv : Byte) (s : State) : Host.Outcome State Fault Refusal :=
  .next (receiveFrame (responseFrame echo q1 q2 params.ackTimeout chkByte rsv) s)

/-- ACK_UNKNOWN (R177): a response whose byte 4 is none of the seven named codes; the byte is kept. -/
def execAckUnknown (echo q1 q2 q3 chkByte rsv : Byte) (s : State) : Host.Outcome State Fault Refusal :=
  .next (receiveFrame (responseFrame echo q1 q2 q3 chkByte rsv) s)

end Sys2Proof.Machine
end

