-- ==== Sys2Proof/Machine/Dispatch.lean ====
section
/-!
DEFINITION. One arm per constructor of Instr: the instruction's meaning.
-/

namespace Sys2Proof.Machine

def exec (i : Instr) (s : State) : Host.Outcome State Fault Refusal :=
  match i with
  -- requests (format REQ8)
  | .enroll1 uid perm => Sys2Proof.Machine.execEnroll1 uid perm s
  | .enroll2 uid perm => Sys2Proof.Machine.execEnroll2 uid perm s
  | .enroll3 uid perm => Sys2Proof.Machine.execEnroll3 uid perm s
  | .deluser uid => Sys2Proof.Machine.execDeluser uid s
  | .delall => Sys2Proof.Machine.execDelall s
  | .count => Sys2Proof.Machine.execCount s
  | .qperm uid => Sys2Proof.Machine.execQperm uid s
  | .verify11 uid => Sys2Proof.Machine.execVerify11 uid s
  | .verify1n => Sys2Proof.Machine.execVerify1n s
  | .raw c p1 p2 p3 => Sys2Proof.Machine.execRaw c p1 p2 p3 s
  -- acknowledgments (format RSP8)
  | .ackSuccess echo q1 q2 chkByte rsv => Sys2Proof.Machine.execAckSuccess echo q1 q2 chkByte rsv s
  | .ackFail echo q1 q2 chkByte rsv => Sys2Proof.Machine.execAckFail echo q1 q2 chkByte rsv s
  | .ackDatabaseFull echo q1 q2 chkByte rsv => Sys2Proof.Machine.execAckDatabaseFull echo q1 q2 chkByte rsv s
  | .ackNoUser echo q1 q2 chkByte rsv => Sys2Proof.Machine.execAckNoUser echo q1 q2 chkByte rsv s
  | .ackUserIdOccupied echo q1 q2 chkByte rsv => Sys2Proof.Machine.execAckUserIdOccupied echo q1 q2 chkByte rsv s
  | .ackFingerprintOccupied echo q1 q2 chkByte rsv => Sys2Proof.Machine.execAckFingerprintOccupied echo q1 q2 chkByte rsv s
  | .ackTimeout echo q1 q2 chkByte rsv => Sys2Proof.Machine.execAckTimeout echo q1 q2 chkByte rsv s
  | .ackUnknown echo q1 q2 q3 chkByte rsv => Sys2Proof.Machine.execAckUnknown echo q1 q2 q3 chkByte rsv s

end Sys2Proof.Machine
end

