-- ==== Sys2Proof/Machine/Flags.lean ====
section
/-!
DEFINITION. The status flags and outputs of the block as views of the state (10_state.md R30 to R40, R44): there are no
arithmetic flags (R33). An output that the spec calls unspecified has no value (R39, U10).
-/

namespace Sys2Proof.Machine

/-- The port code of `phase` (R26). -/
def Phase.portCode : Phase → BitVec 2
  | .idle => 0#2
  | .tx => 1#2
  | .rx => 2#2

/-- The port code of `res_kind` (R34). -/
def ResKind.portCode : ResKind → BitVec 2
  | .none => 0#2
  | .ok => 1#2
  | .malformed => 2#2
  | .ioErr => 3#2

/-- The port code of `res_io_cause` (R35). -/
def ResIoCause.portCode : ResIoCause → BitVec 2
  | .none => 0#2
  | .writeFailed => 1#2
  | .readTimeout => 2#2
  | .readFailed => 3#2

/-- `busy` (R30). -/
def busy (s : State) : Bool := s.phase != .idle

/-- `tx_valid` (R44). -/
def txValid (s : State) : Bool := s.phase == .tx && decide (s.txIdx.toNat < 8)

/-- `tx_byte` (R44): `tx_buf[tx_idx]`. Once all eight bytes are sent `tx_idx` is no offset of the frame (R60) and no rule reads
the output (R24): its value is free (log entry 24). -/
def txByte (s : State) : Byte :=
  if h : s.txIdx.toNat < 8 then s.txBuf[s.txIdx.toNat] else Config.freeTxByte s.fresh

/-- The result data, while it has a value: `res_kind = OK` (R32, R36, R37). -/
def resultData (s : State) : Option ResData :=
  match s.resKind with
  | .ok => some s.resData
  | .none => none
  | .malformed => none
  | .ioErr => none

/-- The decode-level result (R155, R222): what `Decode` answered for the frame or buffer of the result at hand. -/
def decodeResult (s : State) : Option DecodeResult :=
  match s.resKind with
  | .ok => some (.ok ⟨s.resData.cmdEcho, s.resData.q1, s.resData.q2, s.resData.q3, s.resData.chk, s.resData.rsv⟩)
  | .malformed => some .malformed
  | .none => none
  | .ioErr => none

/-- The acknowledgment of a class code and the raw byte (R37: code 7 carries `res_q3`). -/
def ackOfPort (code : BitVec 3) (q3 : Byte) : AckCode :=
  if code = 0#3 then .success
  else if code = 1#3 then .fail
  else if code = 2#3 then .databaseFull
  else if code = 3#3 then .noUser
  else if code = 4#3 then .userIdOccupied
  else if code = 5#3 then .fingerprintOccupied
  else if code = 6#3 then .timeout
  else .unknown q3

/-- The operation value on the ports (R38): the constructor is `res_op_kind`, its operands are read from the data fields.
Codes 6 and 7 are unused and have no value. -/
def opValueOfPort (d : ResData) : Option OpValue :=
  if d.opKind = 0#3 then some (.status (ackOfPort d.ackClass d.q3))
  else if d.opKind = 1#3 then some .noMatch
  else if d.opKind = 2#3 then some .noFinger
  else if d.opKind = 3#3 then some (.matched d.u16 d.q3)
  else if d.opKind = 4#3 then some (.userCount d.u16)
  else if d.opKind = 5#3 then some (.permission d.q3)
  else none

/-- The cause of an I/O error on the ports (R35, R245). -/
def ioCauseOfPort : ResIoCause → Option IoCause
  | .writeFailed => some .writeFailed
  | .readTimeout => some .readTimeout
  | .readFailed => some .readFailed
  | .none => none

/-- The operation result the host reads on the ports (R38, R210, R223), if the result at hand came from an exchange. -/
def opResult (s : State) : Option OpResult :=
  if s.resOpValid then
    match s.resKind with
    | .ok => (opValueOfPort s.resData).map .done
    | .malformed => some (.opErr .malformedFrame)
    | .ioErr => (ioCauseOfPort s.resIoCause).map fun c => .opErr (.ioError c)
    | .none => none
  else none

/-- The value of an output, zero-extended to 64 bits; `none` where it has no value (R39, R46, U10). -/
def readPort (port : OutPort) (s : State) : Option FrameWord :=
  match port with
  | .reqReady => some ((BitVec.ofBool (!busy s)).zeroExtend 64)
  | .decReady => some ((BitVec.ofBool (!busy s)).zeroExtend 64)
  | .txValid => some ((BitVec.ofBool (txValid s)).zeroExtend 64)
  | .txByte => some ((txByte s).zeroExtend 64)
  | .rxReady => some ((BitVec.ofBool (s.phase == .rx)).zeroExtend 64)
  | .busy => some ((BitVec.ofBool (busy s)).zeroExtend 64)
  | .txFrame => some (wordOfFrame s.txBuf)
  | .resValid => some ((BitVec.ofBool s.resValid).zeroExtend 64)
  | .resKind => some (s.resKind.portCode.zeroExtend 64)
  | .resIoCause => some (s.resIoCause.portCode.zeroExtend 64)
  | .resCmdEcho => (resultData s).map fun d => d.cmdEcho.zeroExtend 64
  | .resQ1 => (resultData s).map fun d => d.q1.zeroExtend 64
  | .resQ2 => (resultData s).map fun d => d.q2.zeroExtend 64
  | .resQ3 => (resultData s).map fun d => d.q3.zeroExtend 64
  | .resChk => (resultData s).map fun d => d.chk.zeroExtend 64
  | .resRsv => (resultData s).map fun d => d.rsv.zeroExtend 64
  | .resU16 => (resultData s).map fun d => d.u16.zeroExtend 64
  | .resAckClass => (resultData s).map fun d => d.ackClass.zeroExtend 64
  | .resChkOk => (resultData s).map fun d => (BitVec.ofBool d.chkOk).zeroExtend 64
  | .resOpValid => some ((BitVec.ofBool s.resOpValid).zeroExtend 64)
  | .resOpKind => if s.resOpValid then (resultData s).map fun d => d.opKind.zeroExtend 64 else none

end Sys2Proof.Machine
end

