-- ==== Sys2Proof/Machine/Edge.lean ====
section
/-!
DEFINITION. What one move of host or environment does: a clock edge with the priorities of R247 and the enabling conditions
of R45 and R249, a byte or a whole frame arriving, an output read; and how a table word becomes such a move.
-/

namespace Sys2Proof.Machine

/-- An edge in phase IDLE (R45, R247): a request over a standalone close over a standalone push; the transport's pins have
no effect (R249). -/
def edgeIdle (p : Pins) (s : State) : Host.Outcome State Fault Refusal :=
  if p.reqValid then exec (requestInstr p.request.cmd p.request.p1 p.request.p2 p.request.p3) s
  else if p.decClose then .next (closeStandalone s)
  else if p.decPush then .next (pushStandalone p.decByte s)
  else .next s

/-- An edge in phase TX (R142, R193, R247): a write failure over an accepted byte; nothing else has an effect (R186,
R194, R249). -/
def edgeTx (p : Pins) (s : State) : State :=
  if p.txFail then raiseIoError .writeFailed s
  else if p.txReady then sendByte s
  else s

/-- An edge in phase RX (R166, R191, R192, R247): a delivered byte over a read failure over a read timeout; nothing else has
an effect (R186, R194, R249). -/
def edgeRx (p : Pins) (s : State) : State :=
  if p.rxValid ∧ s.rxChan ≠ [] then offerByte s
  else if p.rxFail then raiseIoError .readFailed s
  else if p.rxTimeout then raiseIoError .readTimeout s
  else s

/-- One rising edge of `clk` (R45): `rst` over everything (R247, R270), then the phase decides which inputs count. -/
def clockEdge (p : Pins) (s : State) : Host.Outcome State Fault Refusal :=
  if p.rst then .next (applyRst s)
  else
    match s.phase with
    | .idle => edgeIdle p s
    | .tx => .next (edgeTx p s)
    | .rx => .next (edgeRx p s)

/-- A whole frame of the peripheral: the row it decodes to is run; a frame that is no row is collected all the same and
rejected by the close step (R69, R189, R242). -/
def receiveWord (w : FrameWord) (s : State) : Host.Outcome State Fault Refusal :=
  match decodeResponse (frameOfWord w) with
  | .ok i => exec i s
  | .error _ => .next (receiveFrame (frameOfWord w) s)

/-- An output is read: no side effect (R71, R276), a fault where it has no value (R39, U10). -/
def sampleOutput (port : OutPort) (s : State) : Host.Outcome State Fault Refusal :=
  match readPort port s with
  | some _ => .next s
  | none => .fault (.noValue port)

/-- What one move does. -/
def takeInput (m : Input) (s : State) : Host.Outcome State Fault Refusal :=
  match m with
  | .edge p => clockEdge p s
  | .arrive b => .next (arriveByte b s)
  | .response w => receiveWord w s
  | .sample port => sampleOutput port s

/-- One step: the next move of host or environment is taken; with none to come, the state holds (R45; log entry 14). -/
def takeNext (s : State) : Host.Outcome State Fault Refusal :=
  match s.inputs with
  | [] => .next s
  | m :: rest => takeInput m (setInputs rest s)

/-- The host offers a request at the request port (R44, R45). -/
def requestEdge (r : Request) : Input :=
  .edge { reqValid := true, request := r }

/-- The move that a table word stands for: a request row is offered at the request port, any other frame arrives from the
peripheral (log entries 9 and 11). -/
def tableInput (nbits w : Nat) : Input :=
  match decodeTableWord nbits w with
  | some i =>
    match buildReq i with
    | some r => requestEdge r
    | none => .response (BitVec.ofNat 64 (w % 2 ^ nbits))
  | none => .response (BitVec.ofNat 64 (w % 2 ^ nbits))

end Sys2Proof.Machine
end

