-- ==== Sys2Proof/Machine/Step.lean ====
section
/-!
DEFINITION. The step of the machine, and how an instruction of the opcode table is placed where the step takes its next move.
-/

namespace Sys2Proof.Machine

/-- One step of the machine: the next move of host or environment (log entry 1). -/
def step (s : State) : Host.Outcome State Fault Refusal :=
  takeNext s

/-- `s` with the table word as the next move (log entry 11). -/
def State.withFetchWord (s : State) (nbits w : Nat) : State :=
  setInputs (tableInput nbits w :: s.inputs) s

end Sys2Proof.Machine
end

