-- ==== Sys2Proof/Machine/Run.lean ====
section
/-!
DEFINITION. Runs of the machine (70_reset_and_hazards.md R275, R276): many steps, the requests a run issues, which moves are
the host's, and which moves answer the block's wait (20_memory.md R65, R66).
-/

namespace Sys2Proof.Machine

/-- `n` steps of the machine, ending at the first stop. -/
def run : Nat → State → Host.Outcome State Fault Refusal
  | 0, s => .next s
  | n + 1, s =>
    match step s with
    | .next t => run n t
    | .fault r => .fault r
    | .refused r => .refused r

/-- The request that the next step issues, if it issues one (R141, R45): a request at the port in phase IDLE. -/
def acceptedRequest (s : State) : Option Request :=
  match s.phase, s.inputs with
  | .idle, .edge p :: _ => if p.rst = false ∧ p.reqValid = true then some p.request else none
  | .idle, _ => none
  | .tx, _ => none
  | .rx, _ => none

/-- The requests that `n` steps issue, first to last (R275). -/
def requestsOf : Nat → State → List Request
  | 0, _ => []
  | n + 1, s =>
    match step s with
    | .next t => (acceptedRequest s).toList ++ requestsOf n t
    | .fault _ => []
    | .refused _ => []

/-- The move asserts `rst` (R270). -/
def Input.resets : Input → Bool
  | .edge p => p.rst
  | .arrive _ => false
  | .response _ => false
  | .sample _ => false

/-- The host offers something with this move (R276): a request, a push, a close, or `rst`. Reading an output is a move of the
host that offers nothing. -/
def Input.hostOffers : Input → Bool
  | .edge p => p.rst || p.reqValid || p.decPush || p.decClose
  | .arrive _ => false
  | .response _ => false
  | .sample _ => false

/-- The environment answers the byte that waits in phase TX (R66 (a)): it accepts it or reports `tx_fail`. -/
def Input.answersTx : Input → Bool
  | .edge p => p.txReady || p.txFail
  | .arrive _ => false
  | .response _ => false
  | .sample _ => false

/-- The environment answers the wait of phase RX (R66 (b)): it delivers a byte, or reports `rx_timeout` or `rx_fail`. A whole
response delivers eight. -/
def answersRx (m : Input) (s : State) : Bool :=
  match m with
  | .edge p => (p.rxValid && !s.rxChan.isEmpty) || p.rxTimeout || p.rxFail
  | .arrive _ => false
  | .response _ => true
  | .sample _ => false

end Sys2Proof.Machine
end

