-- ==== Sys2Proof/Machine/Exchange.lean ====
section
/-!
DEFINITION. The exchange as a function over the environment's answers (43_exchange.md R185), the moves by which the
environment gives those answers to the machine, and the host's sequences that are no single request: DECODEBUF (R168, R222),
ENROLL and WAIT (R108, R226).
-/

namespace Sys2Proof.Machine

/-- The transport's answer to one byte of the write-all (R62, R65). -/
inductive TxAnswer where
  | accept
  | fail
  deriving DecidableEq, Repr

/-- The transport's answer while the block waits for a byte (R64, R65). -/
inductive RxAnswer where
  | deliver (b : Byte)
  | timeout
  | fail
  deriving DecidableEq, Repr

/-- How far a write-all or a read-exact came (R185). -/
inductive Progress (α : Type) where
  /-- the transport has not answered yet: the block waits (R196) -/
  | waiting
  /-- the transport reported a failure -/
  | failed (cause : IoCause)
  /-- complete -/
  | complete (a : α)
  deriving DecidableEq, Repr

/-- The first loop of `Exchange` (R185): the bytes that reached the channel, and how the write-all ended. -/
def writeAll : List Byte → List TxAnswer → List Byte × Progress Unit
  | [], _ => ([], .complete ())
  | _ :: _, [] => ([], .waiting)
  | _ :: _, .fail :: _ => ([], .failed .writeFailed)
  | b :: bs, .accept :: as => ((b :: (writeAll bs as).1), (writeAll bs as).2)

/-- The second loop of `Exchange` (R185): `n` bytes are still to come, and each is stored at its offset of `r`. -/
def readExact : Nat → Frame → List RxAnswer → Progress Frame
  | 0, r, _ => .complete r
  | _ + 1, _, [] => .waiting
  | _ + 1, _, .timeout :: _ => .failed .readTimeout
  | _ + 1, _, .fail :: _ => .failed .readFailed
  | n + 1, r, .deliver b :: as => readExact n (r.setIfInBounds (params.frameLen - (n + 1)) b) as

/-- The frame `r` before anything is read; a complete read writes every byte of it. -/
def unread : Frame := #v[0#8, 0#8, 0#8, 0#8, 0#8, 0#8, 0#8, 0#8]

/-- `Exchange(c, p1, p2, p3)` (R185) against the transport's answers: the result, or `none` while the block still waits. -/
def exchange (r : Request) (txs : List TxAnswer) (rxs : List RxAnswer) : Option ExchResult :=
  match (writeAll r.frame.toList txs).2 with
  | .waiting => none
  | .failed cause => some (.ioError cause)
  | .complete _ =>
    match readExact params.frameLen unread rxs with
    | .waiting => none
    | .failed cause => some (.ioError cause)
    | .complete f => some (.frame f)

/-- The clock edge that gives a write answer. -/
def TxAnswer.move : TxAnswer → Input
  | .accept => .edge { txReady := true }
  | .fail => .edge { txFail := true }

/-- The moves that give a read answer: a delivered byte enters the channel and is offered. -/
def RxAnswer.moves : RxAnswer → List Input
  | .deliver b => [.arrive b, .edge { rxValid := true }]
  | .timeout => [.edge { rxTimeout := true }]
  | .fail => [.edge { rxFail := true }]

/-- The moves of one whole exchange: the host's request, then the transport's answers. -/
def exchangeMoves (r : Request) (txs : List TxAnswer) (rxs : List RxAnswer) : List Input :=
  requestEdge r :: (txs.map TxAnswer.move ++ rxs.flatMap RxAnswer.moves)

/-- The host's moves of DECODEBUF `b0 … b(n-1)` (R168, R222): `n` pushes and a close, each at an edge of its own. -/
def decodeBufMoves (bytes : List Byte) : List Input :=
  bytes.map (fun b => .edge { decPush := true, decByte := b }) ++ [.edge { decClose := true }]

/-- Where the host is in an ENROLL sequence (R226); the block holds none of it. -/
inductive EnrollState where
  | idle
  | step1
  | step2
  | step3
  | done
  deriving DecidableEq, Repr

/-- The host's enrollment: its operands, its place and the results so far, oldest first (R226, R228). -/
structure Enrollment where
  uid     : Half
  perm    : Byte
  state   : EnrollState
  results : List OpResult
  deriving DecidableEq, Repr

/-- An enrollment that has left Idle for Step1 (R226). -/
def Enrollment.begin (uid : Half) (perm : Byte) : Enrollment :=
  ⟨uid, perm, .step1, []⟩

/-- The request of the step the host is in (R226). -/
def Enrollment.request (e : Enrollment) : Option Instr :=
  match e.state with
  | .idle => none
  | .step1 => some (.enroll1 e.uid e.perm)
  | .step2 => some (.enroll2 e.uid e.perm)
  | .step3 => some (.enroll3 e.uid e.perm)
  | .done => none

/-- The step the host is in ends with `r`: the sequence goes on whatever `r` is (R227). -/
def Enrollment.stepEnds (r : OpResult) (e : Enrollment) : Enrollment :=
  match e.state with
  | .idle => e
  | .step1 => { e with state := .step2, results := e.results ++ [r] }
  | .step2 => { e with state := .step3, results := e.results ++ [r] }
  | .step3 => { e with state := .done, results := e.results ++ [r] }
  | .done => e

/-- In state Done the host reports the results in order (R226, R228). -/
def Enrollment.report (e : Enrollment) : Option (List OpResult) :=
  match e.state with
  | .done => some e.results
  | .idle => none
  | .step1 => none
  | .step2 => none
  | .step3 => none

/-- What the host writes in the notation of R107 and R108. -/
inductive HostOp where
  /-- a request row: one whole exchange -/
  | request (i : Instr)
  /-- DECODEBUF (R222) -/
  | decodeBuf (bytes : List Byte)
  /-- ENROLL `uid, perm` (R226) -/
  | enroll (uid : Half) (perm : Byte)
  /-- WAIT (R108): the host's pause -/
  | wait
  deriving DecidableEq, Repr

/-- The expansion of the pseudo-operation ENROLL (R108, R226); nothing depends on a step's result (R227). -/
def HostOp.expand : HostOp → List HostOp
  | .request i => [.request i]
  | .decodeBuf bytes => [.decodeBuf bytes]
  | .enroll uid perm =>
    [.request (.enroll1 uid perm), .wait, .request (.enroll2 uid perm), .wait, .request (.enroll3 uid perm)]
  | .wait => [.wait]

/-- The moves the host itself makes for an operation; the transport's answers come between them. WAIT changes no block state
(R108), and a response row is no move of the host. -/
def HostOp.moves : HostOp → List Input
  | .request i =>
    match buildReq i with
    | some r => [requestEdge r]
    | none => []
  | .decodeBuf bytes => decodeBufMoves bytes
  | .enroll uid perm =>
    [requestEdge (formUP params.cmdEnroll1 uid perm), requestEdge (formUP params.cmdEnroll2 uid perm),
     requestEdge (formUP params.cmdEnroll3 uid perm)]
  | .wait => []

end Sys2Proof.Machine
end

