-- ==== Sys2Proof/Safety.lean ====
section
/-!
DEFINITION. What claims call a good state: the control invariant, the result register's coherence, the launch state (R272),
the end of an exchange and of a run (R275), and the progress of the environment as premises (R66).
-/

namespace Sys2Proof.Machine

/-- The counters and status bits agree with the phase, in every state a run reaches: `tx_idx` never exceeds 8 and is below 8
in phase TX (R24, R142), `rx_cnt` never exceeds 9 and is below 8 during an exchange (R25), the frame being sent is one
`Encode` makes (R21), and the result is empty while busy (R31, R34). -/
structure ControlInv (s : State) : Prop where
  txIdx_le    : s.txIdx.toNat ≤ 8
  rxCnt_le    : s.rxCnt.toNat ≤ 9
  tx_sending  : s.phase = .tx → s.txIdx.toNat < 8 ∧ s.rxCnt = 0#4
  rx_reading  : s.phase = .rx → s.txIdx = 8#4 ∧ s.rxCnt.toNat < 8
  busy_frame  : s.phase ≠ .idle → s.txBuf = encodeFrame s.txBuf[1] s.txBuf[2] s.txBuf[3] s.txBuf[4]
  busy_empty  : s.phase ≠ .idle → s.resValid = false

/-- The result register is coherent: `res_valid` and `res_io_cause` say what `res_kind` says (R31, R34, R35), an empty result
and an I/O error have the `res_op_valid` R141 and R250 give them, and for a well-formed frame every derived field is the
function of the raw bytes that R32, R36, R37 and R38 name. -/
structure ResultInv (s : State) : Prop where
  valid_iff    : s.resValid = true ↔ s.resKind ≠ .none
  cause_iff    : s.resIoCause ≠ .none ↔ s.resKind = .ioErr
  none_op      : s.resKind = .none → s.resOpValid = false
  ioErr_op     : s.resKind = .ioErr → s.resOpValid = true
  ok_u16       : s.resKind = .ok → s.resData.u16 = joinBytes s.resData.q1 s.resData.q2
  ok_class     : s.resKind = .ok → s.resData.ackClass = (classify s.resData.q3).portCode
  ok_chk       : s.resKind = .ok →
                   s.resData.chkOk = (s.resData.chk == s.resData.cmdEcho ^^^ s.resData.q1 ^^^ s.resData.q2 ^^^ s.resData.q3)
  ok_opKind    : s.resKind = .ok → s.resOpValid = true →
                   s.resData.opKind = (interpretOk s.txBuf[1]
                     ⟨s.resData.cmdEcho, s.resData.q1, s.resData.q2, s.resData.q3, s.resData.chk, s.resData.rsv⟩).portCode

/-- The invariant of the machine. -/
structure Inv (s : State) : Prop where
  control : ControlInv s
  result  : ResultInv s

/-- The launch state of a run (R272), whatever waits in the channels. -/
def Launch (s : State) : Prop :=
  s.phase = .idle ∧ s.resValid = false ∧ s.rxCnt = 0#4

/-- The last exchange or standalone decode has ended and its result stands (R275). -/
def Ended (s : State) : Prop :=
  s.phase = .idle ∧ s.resValid = true

/-- The state is the end of a run (R275): the last request has ended and the host offers nothing more. Bytes may still wait or
arrive, and outputs may be read. -/
def RunOver (s : State) : Prop :=
  Ended s ∧ ∀ m ∈ s.inputs, m.hostOffers = false

/-- A finished run (R275): `n` steps without a reset lead from a launch state to the end of a run, issuing the requests `rs`
in this order. Each is issued in phase IDLE, so after the one before it has ended. -/
structure FinishedRun (rs : List Request) (n : Nat) (s t : State) : Prop where
  launch   : Launch s
  reaches  : run n s = .next t
  requests : requestsOf n s = rs
  no_reset : ∀ k < n, ∀ u, run k s = .next u → ∀ m ∈ u.inputs.head?, m.resets = false
  finished : RunOver t

/-- An execution without end: at every moment the step takes one more move of host or environment. -/
def Execution (moves : Nat → Input) (states : Nat → State) : Prop :=
  ∀ n, step (setInputs [moves n] (states n)) = .next (states (n + 1))

/-- Progress premise (a) of R66, weak fairness in phase TX: a byte does not wait for ever without the environment accepting it
or reporting `tx_fail`. -/
def TxProgress (moves : Nat → Input) (states : Nat → State) : Prop :=
  ∀ n, (∀ m ≥ n, (states m).phase = .tx) → ∃ m ≥ n, (moves m).answersTx = true

/-- Progress premise (b) of R66, weak fairness in phase RX: the block does not wait for ever without the environment delivering
a byte (so, again and again, enough to make 8) or reporting `rx_timeout` or `rx_fail`. -/
def RxProgress (moves : Nat → Input) (states : Nat → State) : Prop :=
  ∀ n, (∀ m ≥ n, (states m).phase = .rx) → ∃ m ≥ n, answersRx (moves m) (states m) = true

/-- What the issue step leaves (R141) when the frame `f` is loaded, and what it leaves alone: the receive buffer, both
channels and the moves to come. The data fields of the result become unspecified, so nothing is said of them. -/
def Issued (f : Frame) (s t : State) : Prop :=
  (t.txBuf = f ∧ t.txIdx = 0#4 ∧ t.rxCnt = 0#4 ∧ t.phase = .tx) ∧
  (t.resValid = false ∧ t.resKind = .none ∧ t.resIoCause = .none ∧ t.resOpValid = false) ∧
  (t.rxBuf = s.rxBuf ∧ t.txSent = s.txSent ∧ t.rxChan = s.rxChan ∧ t.inputs = s.inputs)

/-- What an error entry leaves (R250) and what it leaves alone: `tx_buf`, `tx_idx`, the receive buffer, both channels and the
moves to come. -/
def ErrorEntered (kind : ResKind) (cause : ResIoCause) (fromExchange : Bool) (s t : State) : Prop :=
  (t.resKind = kind ∧ t.resIoCause = cause ∧ t.resOpValid = fromExchange ∧ t.resValid = true) ∧
  (t.rxCnt = 0#4 ∧ t.phase = .idle) ∧
  (t.txBuf = s.txBuf ∧ t.txIdx = s.txIdx ∧ t.rxBuf = s.rxBuf ∧ t.txSent = s.txSent ∧ t.rxChan = s.rxChan ∧
    t.inputs = s.inputs)

/-- What the close step leaves (R167) when `f` is a well-formed frame whose byte 4 has the port code `ackCode`, but for
`res_op_kind`. -/
def FrameRecorded (f : Frame) (ackCode : BitVec 3) (fromExchange : Bool) (t : State) : Prop :=
  (t.resKind = .ok ∧ t.resIoCause = .none ∧ t.resOpValid = fromExchange ∧ t.resValid = true) ∧
  (t.resData.cmdEcho = f[1] ∧ t.resData.q1 = f[2] ∧ t.resData.q2 = f[3] ∧ t.resData.q3 = f[4] ∧
    t.resData.chk = f[5] ∧ t.resData.rsv = f[6]) ∧
  (t.resData.u16 = f[2] ++ f[3] ∧ t.resData.ackClass = ackCode ∧
    (t.resData.chkOk = true ↔ f[5] = f[1] ^^^ f[2] ^^^ f[3] ^^^ f[4])) ∧
  (t.rxCnt = 0#4 ∧ t.phase = .idle)

/-- The sending side is untouched: the transmit buffer and its index, the TX channel and the moves to come. -/
def SenderSame (s t : State) : Prop :=
  t.txBuf = s.txBuf ∧ t.txIdx = s.txIdx ∧ t.txSent = s.txSent ∧ t.inputs = s.inputs

/-- The result register is untouched, every field of it. -/
def ResultSame (s t : State) : Prop :=
  t.resValid = s.resValid ∧ t.resKind = s.resKind ∧ t.resIoCause = s.resIoCause ∧ t.resOpValid = s.resOpValid ∧
    t.resData = s.resData

/-- The exchange of `s` ended with the response `f`, nothing stale being in the channel: the close step's record of it, the
operation result of the command sent (R210), the frame in `rx_buf`, the channel empty and the sending side untouched. -/
def Completed (f : Frame) (ackCode : BitVec 3) (s t : State) : Prop :=
  FrameRecorded f ackCode true t ∧
  opResult t = some (.done (interpretOk s.txBuf[1] ⟨f[1], f[2], f[3], f[4], f[5], f[6]⟩)) ∧
  t.rxBuf = f ∧ t.rxChan = [] ∧ SenderSame s t

/-- At this edge the transport delivers `b`, the eighth byte of a response: seven are in the buffer. -/
def LastByteAt (p : Pins) (b : Byte) (rest : List Byte) (s : State) : Prop :=
  s.phase = .rx ∧ s.rxCnt = 7#4 ∧ s.rxChan = b :: rest ∧ p.rst = false ∧ p.rxValid = true

end Sys2Proof.Machine
end

