-- ==== Sys2Proof/Certificates/Slice0/Obligations.lean ====
section
/-!
DEFINITION. The statements for the provers. Each docstring names the rule of spec/ it comes from.
-/

open Sys2Proof Sys2Proof.Machine

/-! ### Encoding -/

/-- R91 to R93, R99: decoding the frame of any well-formed instruction, in its direction, gives that instruction. -/
def Obligations.DecodeOfEncodeIsTheInstruction : Prop :=
  ∀ i : Instr, i.wellFormed = true → decode i.direction (encode i).toList = .ok i

/-- R92, R93 (the last clause is the model's reading, log entry 9): what bytes decode to has their direction and is
well-formed, and they are its frame, for a request frame with the checksum R91 gives it. With another checksum the frame of
a form Z row is RAW, and nothing else; every other frame that decodes is of a well-formed row, whatever its checksum. -/
def Obligations.EncodeOfDecodeIsTheBytes : Prop :=
  ∀ (dir : Direction) (f : Frame) (i : Instr), decode dir f.toList = .ok i →
    i.direction = dir ∧
    ((dir = .request → f[5] = f[1] ^^^ f[2] ^^^ f[3] ^^^ f[4]) → i.wellFormed = true ∧ encode i = f) ∧
    (if dir = .request ∧ f[1] ∈ [0x05#8, 0x09#8, 0x0C#8] ∧ f[2] = 0x00#8 ∧ f[3] = 0x00#8 ∧ f[4] = 0x00#8 ∧ f[5] ≠ f[1]
      then i = .raw f[1] 0x00#8 0x00#8 0x00#8 else i.wellFormed = true)

/-- The ten request rows by the table's own match and mask (R93); RAW is what matches its own mask and none of the nine before
it, whatever its checksum byte. -/
def Obligations.RequestsDecodeByMatchAndMask : Prop :=
  ∀ w : FrameWord,
    ((∃ uid perm, decodeRequest (frameOfWord w) = .ok (.enroll1 uid perm)) ↔
      w &&& 0xFFFF00000000FFFF#64 = 0xF5010000000000F5#64) ∧
    ((∃ uid perm, decodeRequest (frameOfWord w) = .ok (.enroll2 uid perm)) ↔
      w &&& 0xFFFF00000000FFFF#64 = 0xF5020000000000F5#64) ∧
    ((∃ uid perm, decodeRequest (frameOfWord w) = .ok (.enroll3 uid perm)) ↔
      w &&& 0xFFFF00000000FFFF#64 = 0xF5030000000000F5#64) ∧
    ((∃ uid, decodeRequest (frameOfWord w) = .ok (.deluser uid)) ↔
      w &&& 0xFFFF0000FF00FFFF#64 = 0xF5040000000000F5#64) ∧
    (decodeRequest (frameOfWord w) = .ok .delall ↔ w = 0xF5050000000500F5#64) ∧
    (decodeRequest (frameOfWord w) = .ok .count ↔ w = 0xF5090000000900F5#64) ∧
    ((∃ uid, decodeRequest (frameOfWord w) = .ok (.qperm uid)) ↔
      w &&& 0xFFFF0000FF00FFFF#64 = 0xF50A0000000000F5#64) ∧
    ((∃ uid, decodeRequest (frameOfWord w) = .ok (.verify11 uid)) ↔
      w &&& 0xFFFF0000FF00FFFF#64 = 0xF50B0000000000F5#64) ∧
    (decodeRequest (frameOfWord w) = .ok .verify1n ↔ w = 0xF50C0000000C00F5#64) ∧
    ((∃ c p1 p2 p3, decodeRequest (frameOfWord w) = .ok (.raw c p1 p2 p3)) ↔
      (w &&& 0xFF0000000000FFFF#64 = 0xF5000000000000F5#64 ∧
        (∀ m ∈ [0xF5010000000000F5#64, 0xF5020000000000F5#64, 0xF5030000000000F5#64], w &&& 0xFFFF00000000FFFF#64 ≠ m) ∧
        (∀ m ∈ [0xF5040000000000F5#64, 0xF50A0000000000F5#64, 0xF50B0000000000F5#64], w &&& 0xFFFF0000FF00FFFF#64 ≠ m) ∧
        (∀ m ∈ [0xF5050000000500F5#64, 0xF5090000000900F5#64, 0xF50C0000000C00F5#64], w ≠ m))) ∧
    ((∃ i, decodeRequest (frameOfWord w) = .ok i) ↔ w &&& 0xFF0000000000FFFF#64 = 0xF5000000000000F5#64)

/-- The acknowledgment rows by the table's own match and mask (R93, R101); ACK_UNKNOWN is what has both sentinels and matches
none of the seven. -/
def Obligations.AcknowledgmentsDecodeByMatchAndMask : Prop :=
  ∀ w : FrameWord,
    ((∃ e h l k r, decodeResponse (frameOfWord w) = .ok (.ackSuccess e h l k r)) ↔
      w &&& 0xFF000000FF0000FF#64 = 0xF5000000000000F5#64) ∧
    ((∃ e h l k r, decodeResponse (frameOfWord w) = .ok (.ackFail e h l k r)) ↔
      w &&& 0xFF000000FF0000FF#64 = 0xF5000000010000F5#64) ∧
    ((∃ e h l k r, decodeResponse (frameOfWord w) = .ok (.ackDatabaseFull e h l k r)) ↔
      w &&& 0xFF000000FF0000FF#64 = 0xF5000000040000F5#64) ∧
    ((∃ e h l k r, decodeResponse (frameOfWord w) = .ok (.ackNoUser e h l k r)) ↔
      w &&& 0xFF000000FF0000FF#64 = 0xF5000000050000F5#64) ∧
    ((∃ e h l k r, decodeResponse (frameOfWord w) = .ok (.ackUserIdOccupied e h l k r)) ↔
      w &&& 0xFF000000FF0000FF#64 = 0xF5000000060000F5#64) ∧
    ((∃ e h l k r, decodeResponse (frameOfWord w) = .ok (.ackFingerprintOccupied e h l k r)) ↔
      w &&& 0xFF000000FF0000FF#64 = 0xF5000000070000F5#64) ∧
    ((∃ e h l k r, decodeResponse (frameOfWord w) = .ok (.ackTimeout e h l k r)) ↔
      w &&& 0xFF000000FF0000FF#64 = 0xF5000000080000F5#64) ∧
    ((∃ i, decodeResponse (frameOfWord w) = .ok i) ↔ w &&& 0xFF000000000000FF#64 = 0xF5000000000000F5#64)

/-- Words of the spec's test vectors (T-F1, T-F4, T-F6, T-F15, T-D2, T-D14) decode to the instructions they stand for. The
response T-D2 is no request frame because its checksum is wrong (log entry 9). -/
def Obligations.SpecWordsDecodeAsWritten : Prop :=
  decodeTableWord 64 0xF5010ABC01B600F5 = some (.enroll1 0x0ABC#16 0x01#8) ∧
  decodeTableWord 64 0xF5040ABC00B200F5 = some (.deluser 0x0ABC#16) ∧
  decodeTableWord 64 0xF5090000000900F5 = some .count ∧
  decodeTableWord 64 0xF5123456780800F5 = some (.raw 0x12#8 0x34#8 0x56#8 0x78#8) ∧
  decode .response [0xF5#8, 0x0C#8, 0x00#8, 0x2A#8, 0x00#8, 0x00#8, 0x00#8, 0xF5#8] =
    .ok (.ackSuccess 0x0C#8 0x00#8 0x2A#8 0x00#8 0x00#8) ∧
  decodeTableWord 64 0xF50100000001FFF5 = some (.ackSuccess 0x01#8 0x00#8 0x00#8 0x01#8 0xFF#8)

/-! ### xor_checksum_gen -/

/-- R130, "bit by bit": each bit of the checksum is the parity of the four operand bits at its position. -/
def Obligations.ChecksumIsTheParityOfEachBit : Prop :=
  ∀ (c p1 p2 p3 : Byte) (i : Nat),
    (chk c p1 p2 p3).getLsbD i = ((((c.getLsbD i) ^^ (p1.getLsbD i)) ^^ (p2.getLsbD i)) ^^ (p3.getLsbD i))

/-- R132: order is irrelevant, one change by `d` shows as `d`, two equal changes cancel, and an encoded frame's offsets 1 to 5
XOR to zero. -/
def Obligations.ChecksumLaws : Prop :=
  ∀ c p1 p2 p3 d : Byte,
    (chk p1 c p2 p3 = chk c p1 p2 p3 ∧ chk c p2 p1 p3 = chk c p1 p2 p3 ∧ chk c p1 p3 p2 = chk c p1 p2 p3) ∧
    (chk (c ^^^ d) p1 p2 p3 = chk c p1 p2 p3 ^^^ d ∧ chk c (p1 ^^^ d) p2 p3 = chk c p1 p2 p3 ^^^ d ∧
      chk c p1 (p2 ^^^ d) p3 = chk c p1 p2 p3 ^^^ d ∧ chk c p1 p2 (p3 ^^^ d) = chk c p1 p2 p3 ^^^ d) ∧
    (chk (c ^^^ d) (p1 ^^^ d) p2 p3 = chk c p1 p2 p3 ∧ chk (c ^^^ d) p1 (p2 ^^^ d) p3 = chk c p1 p2 p3 ∧
      chk (c ^^^ d) p1 p2 (p3 ^^^ d) = chk c p1 p2 p3 ∧ chk c (p1 ^^^ d) (p2 ^^^ d) p3 = chk c p1 p2 p3 ∧
      chk c (p1 ^^^ d) p2 (p3 ^^^ d) = chk c p1 p2 p3 ∧ chk c p1 (p2 ^^^ d) (p3 ^^^ d) = chk c p1 p2 p3) ∧
    ((encodeFrame c p1 p2 p3)[1] ^^^ (encodeFrame c p1 p2 p3)[2] ^^^ (encodeFrame c p1 p2 p3)[3] ^^^
      (encodeFrame c p1 p2 p3)[4] ^^^ (encodeFrame c p1 p2 p3)[5] = 0x00#8)

/-- R133: `ChkVerify` holds exactly when offsets 1 to 5 XOR to zero, and of every encoded frame. -/
def Obligations.ChkVerifyHoldsExactlyForZeroXor : Prop :=
  (∀ f : Frame, chkVerify f = true ↔ f[1] ^^^ f[2] ^^^ f[3] ^^^ f[4] ^^^ f[5] = 0x00#8) ∧
  (∀ c p1 p2 p3 : Byte, chkVerify (encodeFrame c p1 p2 p3) = true)

/-! ### packet_framer -/

/-- R140: distinct operands give distinct frames. -/
def Obligations.EncodeIsInjective : Prop :=
  ∀ a b : Request, a.frame = b.frame → a = b

/-- R144: an encoded frame's checksum byte, what `Decode` makes of the frame, and the class of that. -/
def Obligations.DecodeOfAnEncodedFrame : Prop :=
  ∀ c p1 p2 p3 : Byte,
    (encodeFrame c p1 p2 p3)[5] = c ^^^ p1 ^^^ p2 ^^^ p3 ∧
    ∃ d, decodeBuf (encodeFrame c p1 p2 p3).toList = .ok d ∧
      d = ⟨c, p1, p2, p3, c ^^^ p1 ^^^ p2 ^^^ p3, 0x00#8⟩ ∧ classify d.q3 = classify p3

/-- R212 to R214, R141: an enroll step offered in phase IDLE is issued with its frame (form UP). -/
def Obligations.EnrollStepsIssueTheirFrames : Prop :=
  ∀ (uid : BitVec 16) (perm : Byte) (hi lo : Byte) (s : State), s.phase = .idle →
    hi = uid.extractLsb' 8 8 → lo = uid.extractLsb' 0 8 →
    (∃ t, exec (.enroll1 uid perm) s = .next t ∧
      Issued #v[0xF5#8, 0x01#8, hi, lo, perm, 0x01#8 ^^^ hi ^^^ lo ^^^ perm, 0x00#8, 0xF5#8] s t) ∧
    (∃ t, exec (.enroll2 uid perm) s = .next t ∧
      Issued #v[0xF5#8, 0x02#8, hi, lo, perm, 0x02#8 ^^^ hi ^^^ lo ^^^ perm, 0x00#8, 0xF5#8] s t) ∧
    (∃ t, exec (.enroll3 uid perm) s = .next t ∧
      Issued #v[0xF5#8, 0x03#8, hi, lo, perm, 0x03#8 ^^^ hi ^^^ lo ^^^ perm, 0x00#8, 0xF5#8] s t)

/-- R215, R218, R219, R141: a request with a user id offered in phase IDLE is issued with its frame (form U). -/
def Obligations.UserIdRequestsIssueTheirFrames : Prop :=
  ∀ (uid : BitVec 16) (hi lo : Byte) (s : State), s.phase = .idle →
    hi = uid.extractLsb' 8 8 → lo = uid.extractLsb' 0 8 →
    (∃ t, exec (.deluser uid) s = .next t ∧
      Issued #v[0xF5#8, 0x04#8, hi, lo, 0x00#8, 0x04#8 ^^^ hi ^^^ lo, 0x00#8, 0xF5#8] s t) ∧
    (∃ t, exec (.qperm uid) s = .next t ∧
      Issued #v[0xF5#8, 0x0A#8, hi, lo, 0x00#8, 0x0A#8 ^^^ hi ^^^ lo, 0x00#8, 0xF5#8] s t) ∧
    (∃ t, exec (.verify11 uid) s = .next t ∧
      Issued #v[0xF5#8, 0x0B#8, hi, lo, 0x00#8, 0x0B#8 ^^^ hi ^^^ lo, 0x00#8, 0xF5#8] s t)

/-- R216, R217, R220, R141: a request without operands offered in phase IDLE is issued with its frame (form Z). -/
def Obligations.OperandlessRequestsIssueTheirFrames : Prop :=
  ∀ s : State, s.phase = .idle →
    (∃ t, exec .delall s = .next t ∧ Issued #v[0xF5#8, 0x05#8, 0x00#8, 0x00#8, 0x00#8, 0x05#8, 0x00#8, 0xF5#8] s t) ∧
    (∃ t, exec .count s = .next t ∧ Issued #v[0xF5#8, 0x09#8, 0x00#8, 0x00#8, 0x00#8, 0x09#8, 0x00#8, 0xF5#8] s t) ∧
    (∃ t, exec .verify1n s = .next t ∧ Issued #v[0xF5#8, 0x0C#8, 0x00#8, 0x00#8, 0x00#8, 0x0C#8, 0x00#8, 0xF5#8] s t)

/-- R221, R102, R141: a raw request with any four bytes, its command named or not, is issued with its frame. -/
def Obligations.RawRequestIssuesItsFrame : Prop :=
  ∀ (c p1 p2 p3 : Byte) (s : State), s.phase = .idle →
    ∃ t, exec (.raw c p1 p2 p3) s = .next t ∧
      Issued #v[0xF5#8, c, p1, p2, p3, c ^^^ p1 ^^^ p2 ^^^ p3, 0x00#8, 0xF5#8] s t

/-- R94: the user id of a request stands in the frame big-endian and is recovered from it, for every 16-bit value. -/
def Obligations.UserIdRoundTripsThroughTheFrame : Prop :=
  ∀ (uid : BitVec 16) (perm : Byte) (s t : State) (i : Instr), s.phase = .idle →
    i ∈ [.enroll1 uid perm, .enroll2 uid perm, .enroll3 uid perm, .deluser uid, .qperm uid, .verify11 uid] →
    exec i s = .next t →
    t.txBuf[2] = uid.extractLsb' 8 8 ∧ t.txBuf[3] = uid.extractLsb' 0 8 ∧ joinBytes t.txBuf[2] t.txBuf[3] = uid

/-- R186: `req_ready` is 1 exactly in phase IDLE, and a request of any of the ten rows offered while busy changes nothing. -/
def Obligations.RequestWhileBusyChangesNothing : Prop :=
  ∀ s : State,
    (readPort .reqReady s = some 1#64 ↔ s.phase = .idle) ∧
    (s.phase ≠ .idle → ∀ i : Instr, i.direction = .request → exec i s = .next s)

/-- R142: the TX byte step: enabled exactly while the transport accepts a byte and `tx_idx < 8`, it sends the byte at `tx_idx`,
counts it and, at offset 7, starts phase RX; where it is not enabled phase TX holds. -/
def Obligations.TxByteStepSendsOneByte : Prop :=
  ∀ (s : State) (p : Pins), s.phase = .tx → p.rst = false → p.txFail = false →
    clockEdge p s = .next (if h : p.txReady = true ∧ s.txIdx.toNat < 8 then
      { s with
        txSent := s.txSent ++ [s.txBuf[s.txIdx.toNat]]
        txIdx  := s.txIdx + 1#4
        phase  := if s.txIdx = 7#4 then .rx else .tx }
      else s)

/-- R73 (a), R187, R188: eight accepted bytes hand the whole frame over in offset order and lead to phase RX, whatever the
other pins show. -/
def Obligations.EightAcceptedBytesSendTheFrame : Prop :=
  ∀ (s : State) (ps : List Pins) (rest : List Input), s.phase = .tx → s.txIdx = 0#4 → ps.length = 8 →
    (∀ p ∈ ps, p.rst = false ∧ p.txFail = false ∧ p.txReady = true) →
    run 8 { s with inputs := ps.map Input.edge ++ rest } =
      .next { s with inputs := rest, txSent := s.txSent ++ s.txBuf.toList, txIdx := 8#4, phase := .rx }

/-! ### serial_protocol_decoder -/

/-- R155 to R157: `Decode` answers MalformedFrame exactly for a wrong length or a wrong sentinel. -/
def Obligations.DecodeIsMalformedExactlyForLengthOrSentinel : Prop :=
  ∀ buf : List Byte,
    decodeBuf buf = .malformed ↔ (buf.length ≠ 8 ∨ buf[0]? ≠ some 0xF5#8 ∨ buf[7]? ≠ some 0xF5#8)

/-- R158, R161: offsets 1, 5 and 6 of a response are never checked: frames equal at the other offsets decode alike, with equal
`q1`, `q2`, `q3`. -/
def Obligations.DecodeNeverChecksEchoChecksumOrReserved : Prop :=
  ∀ f g : Frame, f[0] = g[0] → f[2] = g[2] → f[3] = g[3] → f[4] = g[4] → f[7] = g[7] →
    (decodeBuf f.toList = .malformed ∧ decodeBuf g.toList = .malformed) ∨
    (∃ d e : Decoded, decodeBuf f.toList = .ok d ∧ decodeBuf g.toList = .ok e ∧
      d.q1 = e.q1 ∧ d.q2 = e.q2 ∧ d.q3 = e.q3)

/-- R159: seven named values, every other value Unknown with the byte, and the port code of each (R37). -/
def Obligations.ClassifyFollowsTheTable : Prop :=
  (classify 0x00#8 = .success ∧ classify 0x01#8 = .fail ∧ classify 0x04#8 = .databaseFull ∧ classify 0x05#8 = .noUser ∧
    classify 0x06#8 = .userIdOccupied ∧ classify 0x07#8 = .fingerprintOccupied ∧ classify 0x08#8 = .timeout) ∧
  (∀ b : Byte, (∀ v ∈ [0x00#8, 0x01#8, 0x04#8, 0x05#8, 0x06#8, 0x07#8, 0x08#8], b ≠ v) →
    classify b = .unknown b ∧ (classify b).portCode = 7#3)

/-- R166, R25, R169: a standalone push stores at `rx_cnt` while that is below 8, counts to at most 9, and changes nothing
else. -/
def Obligations.StandalonePushStoresOneByte : Prop :=
  ∀ (s : State) (p : Pins), s.phase = .idle → p.rst = false → p.reqValid = false → p.decClose = false →
    p.decPush = true →
    ∃ t, clockEdge p s = .next t ∧ t = { s with rxBuf := t.rxBuf, rxCnt := t.rxCnt } ∧
      t.rxCnt.toNat = min (s.rxCnt.toNat + 1) 9 ∧
      (∀ (k : Nat) (hk : k < 8), t.rxBuf[k] = if k = s.rxCnt.toNat then p.decByte else s.rxBuf[k])

/-- R166, R189: a byte taken in phase RX, not the eighth, is removed from the channel and stored at `rx_cnt`, whatever its
value, and nothing else changes. -/
def Obligations.ExchangePushStoresOneByte : Prop :=
  ∀ (s : State) (p : Pins) (b : Byte) (rest : List Byte), s.phase = .rx → s.rxCnt.toNat < 7 → s.rxChan = b :: rest →
    p.rst = false → p.rxValid = true →
    ∃ t, clockEdge p s = .next t ∧ t = { s with rxBuf := t.rxBuf, rxCnt := t.rxCnt, rxChan := rest } ∧
      t.rxCnt = s.rxCnt + 1#4 ∧
      (∀ (k : Nat) (hk : k < 8), t.rxBuf[k] = if k = s.rxCnt.toNat then b else s.rxBuf[k])

/-- R190, R167 (a): the eighth byte closes in the same step; with both sentinels right the frame is recorded. -/
def Obligations.EighthByteRecordsAWellFormedFrame : Prop :=
  ∀ (s : State) (p : Pins) (rest : List Byte), LastByteAt p 0xF5#8 rest s → s.rxBuf[0] = 0xF5#8 →
    ∃ t, clockEdge p s = .next t ∧ FrameRecorded s.rxBuf (classify s.rxBuf[4]).portCode true t ∧
      SenderSame s t ∧ t.rxChan = rest ∧ t.rxBuf = s.rxBuf.setIfInBounds 7 0xF5#8

/-- R190, R167 (a), R250: the eighth byte closes in the same step; with a wrong sentinel the exchange ends as
MalformedFrame, its eight bytes consumed. -/
def Obligations.EighthByteRejectsAMalformedFrame : Prop :=
  ∀ (s : State) (p : Pins) (b : Byte) (rest : List Byte), LastByteAt p b rest s →
    (s.rxBuf[0] ≠ 0xF5#8 ∨ b ≠ 0xF5#8) →
    ∃ t, clockEdge p s = .next t ∧ opResult t = some (.opErr .malformedFrame) ∧
      ErrorEntered .malformed .none true { s with rxChan := rest, rxBuf := s.rxBuf.setIfInBounds 7 b } t

/-- R167 (b), R168: the host's close in phase IDLE: Decode's answer for the collected buffer, no operation result, no channel
touched. -/
def Obligations.StandaloneCloseDecodesTheBuffer : Prop :=
  ∀ (s : State) (p : Pins), s.phase = .idle → p.rst = false → p.reqValid = false → p.decClose = true →
    ∃ t, clockEdge p s = .next t ∧ SenderSame s t ∧ t.rxChan = s.rxChan ∧ t.rxBuf = s.rxBuf ∧ opResult t = none ∧
      (if s.rxCnt = 8#4 ∧ s.rxBuf[0] = 0xF5#8 ∧ s.rxBuf[7] = 0xF5#8
        then FrameRecorded s.rxBuf (classify s.rxBuf[4]).portCode false t
        else ErrorEntered .malformed .none false s t)

/-- R168, R222: DECODEBUF of a buffer of any length answers exactly `Decode` of it, with no operation result, and touches
neither channel nor `tx_buf`. -/
def Obligations.DecodeBufIsDecodeOfTheBuffer : Prop :=
  ∀ (s : State) (buf : List Byte) (rest : List Input), s.phase = .idle → s.rxCnt = 0#4 →
    s.inputs = decodeBufMoves buf ++ rest →
    ∃ t, run (buf.length + 1) s = .next t ∧ decodeResult t = some (decodeBuf buf) ∧
      t.resOpValid = false ∧ t.resValid = true ∧ t.phase = .idle ∧ t.rxCnt = 0#4 ∧ t.inputs = rest ∧
      t.txBuf = s.txBuf ∧ t.txIdx = s.txIdx ∧ t.txSent = s.txSent ∧ t.rxChan = s.rxChan

/-! ### The acknowledgment rows -/

/-- R170 to R176, R190: a named acknowledgment that arrives while the block waits for the first byte of its response, with
nothing stale in the channel, completes the exchange (in one step of the model, log entry 7): its bytes, its class and the
result of the command stand in the result register, and nothing of the sending side changes. -/
def Obligations.NamedAcknowledgmentsCompleteTheExchange : Prop :=
  ∀ (e h l k r : Byte) (s : State), s.phase = .rx → s.rxCnt = 0#4 → s.rxChan = [] →
    (∃ t, exec (.ackSuccess e h l k r) s = .next t ∧
      Completed #v[0xF5#8, e, h, l, 0x00#8, k, r, 0xF5#8] 0#3 s t) ∧
    (∃ t, exec (.ackFail e h l k r) s = .next t ∧
      Completed #v[0xF5#8, e, h, l, 0x01#8, k, r, 0xF5#8] 1#3 s t) ∧
    (∃ t, exec (.ackDatabaseFull e h l k r) s = .next t ∧
      Completed #v[0xF5#8, e, h, l, 0x04#8, k, r, 0xF5#8] 2#3 s t) ∧
    (∃ t, exec (.ackNoUser e h l k r) s = .next t ∧
      Completed #v[0xF5#8, e, h, l, 0x05#8, k, r, 0xF5#8] 3#3 s t) ∧
    (∃ t, exec (.ackUserIdOccupied e h l k r) s = .next t ∧
      Completed #v[0xF5#8, e, h, l, 0x06#8, k, r, 0xF5#8] 4#3 s t) ∧
    (∃ t, exec (.ackFingerprintOccupied e h l k r) s = .next t ∧
      Completed #v[0xF5#8, e, h, l, 0x07#8, k, r, 0xF5#8] 5#3 s t) ∧
    (∃ t, exec (.ackTimeout e h l k r) s = .next t ∧
      Completed #v[0xF5#8, e, h, l, 0x08#8, k, r, 0xF5#8] 6#3 s t)

/-- R177, R190: an unlisted acknowledgment value completes the exchange (in one step of the model, log entry 7) like a named
one, with class 7 and the byte kept. -/
def Obligations.UnknownAcknowledgmentCompletesTheExchange : Prop :=
  ∀ (e h l q k r : Byte) (s : State), s.phase = .rx → s.rxCnt = 0#4 → s.rxChan = [] →
    (∀ v ∈ [0x00#8, 0x01#8, 0x04#8, 0x05#8, 0x06#8, 0x07#8, 0x08#8], q ≠ v) →
    ∃ t, exec (.ackUnknown e h l q k r) s = .next t ∧
      Completed #v[0xF5#8, e, h, l, q, k, r, 0xF5#8] 7#3 s t

/-- R63, R143: a response that arrives outside phase RX (in one step of the model, log entry 7) is not taken: its eight bytes
wait, and nothing else changes. -/
def Obligations.ResponsesWaitOutsidePhaseRx : Prop :=
  ∀ (i : Instr) (s : State), i.direction = .response → s.phase ≠ .rx →
    exec i s = .next { s with rxChan := s.rxChan ++ (encode i).toList }

/-- R69, R284 (one step of the model for a whole frame, log entry 7): with stale bytes waiting, the block takes the next
eight bytes whatever they are, decodes those, and leaves as many bytes of the late frame behind as were waiting. -/
def Obligations.StaleBytesAreTakenFirst : Prop :=
  ∀ (i : Instr) (s : State), i.direction = .response → s.phase = .rx → s.rxCnt = 0#4 →
    ∃ t, exec i s = .next t ∧ t.phase = .idle ∧ SenderSame s t ∧
      decodeResult t = some (decodeBuf ((s.rxChan ++ (encode i).toList).take 8)) ∧
      t.rxChan = (s.rxChan ++ (encode i).toList).drop 8

/-! ### Operations -/

/-- R217: the result of COUNT: on Success the 16-bit count, else the raw status, and the code of `res_op_kind` (R38). -/
def Obligations.CountReportsTheCountOnSuccess : Prop :=
  ∀ (s : State) (p : Pins) (rest : List Byte), LastByteAt p 0xF5#8 rest s → s.rxBuf[0] = 0xF5#8 → s.txBuf[1] = 0x09#8 →
    ∃ t, clockEdge p s = .next t ∧
      opResult t = some (.done (if s.rxBuf[4] = 0x00#8 then .userCount (s.rxBuf[2] ++ s.rxBuf[3])
        else .status (classify s.rxBuf[4]))) ∧
      t.resData.opKind = if s.rxBuf[4] = 0x00#8 then 4#3 else 0#3

/-- R218: the result of QPERM: byte 4 raw as the permission level unless it is 0x05, then Status(NoUser); and the code
of `res_op_kind` (R38). -/
def Obligations.QueryPermissionReportsByteFour : Prop :=
  ∀ (s : State) (p : Pins) (rest : List Byte), LastByteAt p 0xF5#8 rest s → s.rxBuf[0] = 0xF5#8 → s.txBuf[1] = 0x0A#8 →
    ∃ t, clockEdge p s = .next t ∧
      opResult t = some (.done (if s.rxBuf[4] = 0x05#8 then .status .noUser else .permission s.rxBuf[4])) ∧
      t.resData.opKind = if s.rxBuf[4] = 0x05#8 then 0#3 else 5#3

/-- R220: the result of VERIFY1N: no match on 0x05, no finger on 0x08, else a match with byte 4 as permission; and the
code of `res_op_kind` (R38). -/
def Obligations.VerifyOneToManyReportsTheMatch : Prop :=
  ∀ (s : State) (p : Pins) (rest : List Byte), LastByteAt p 0xF5#8 rest s → s.rxBuf[0] = 0xF5#8 → s.txBuf[1] = 0x0C#8 →
    ∃ t, clockEdge p s = .next t ∧
      opResult t = some (.done (if s.rxBuf[4] = 0x05#8 then .noMatch else if s.rxBuf[4] = 0x08#8 then .noFinger
        else .matched (s.rxBuf[2] ++ s.rxBuf[3]) s.rxBuf[4])) ∧
      t.resData.opKind = if s.rxBuf[4] = 0x05#8 then 1#3 else if s.rxBuf[4] = 0x08#8 then 2#3 else 3#3

/-- R212 to R216, R219, R221: for every other command, the six status commands and every unnamed code, the result is the raw
acknowledgment status, with `res_op_kind` STATUS (R38). -/
def Obligations.OtherCommandsReportTheStatus : Prop :=
  ∀ (s : State) (p : Pins) (rest : List Byte), LastByteAt p 0xF5#8 rest s → s.rxBuf[0] = 0xF5#8 →
    s.txBuf[1] ≠ 0x09#8 → s.txBuf[1] ≠ 0x0A#8 → s.txBuf[1] ≠ 0x0C#8 →
    ∃ t, clockEdge p s = .next t ∧ opResult t = some (.done (.status (classify s.rxBuf[4]))) ∧ t.resData.opKind = 0#3

/-- R225, R161, R158: the operation result never depends on the echoed command, the response's checksum or its reserved byte. -/
def Obligations.ResultIgnoresEchoChecksumAndReserved : Prop :=
  ∀ (s t : State) (p : Pins) (b : Byte) (rest : List Byte) (buf : Frame), LastByteAt p b rest s →
    buf[0] = s.rxBuf[0] → buf[2] = s.rxBuf[2] → buf[3] = s.rxBuf[3] → buf[4] = s.rxBuf[4] →
    clockEdge p s = .next t →
    ∃ u, clockEdge p { s with rxBuf := buf } = .next u ∧ opResult u = opResult t

/-- R38: for a coherent result register the ports give back the operation result in full: the constructor from `res_op_kind`,
its operands from the data fields. -/
def Obligations.PortsCarryTheOperationResult : Prop :=
  ∀ s : State, ResultInv s → s.resKind = .ok → s.resOpValid = true →
    opResult s = some (.done (interpretOk s.txBuf[1]
      ⟨s.resData.cmdEcho, s.resData.q1, s.resData.q2, s.resData.q3, s.resData.chk, s.resData.rsv⟩))

/-! ### Exchange and errors -/

/-- R191, R192, R193, R250: the three transport events end the exchange with their own cause, and the bytes already sent or
taken stay so. That `rx_valid` with nothing waiting in the RX channel delivers no byte, so that `rx_fail` or `rx_timeout` has
its effect, is the model's reading (log entries 6 and 22). -/
def Obligations.TransportEventsEndTheExchange : Prop :=
  ∀ (s : State) (p : Pins), p.rst = false →
    (s.phase = .tx → p.txFail = true →
      ∃ t, clockEdge p s = .next t ∧ ErrorEntered .ioErr .writeFailed true s t ∧
        opResult t = some (.opErr (.ioError .writeFailed))) ∧
    (s.phase = .rx → (p.rxValid = false ∨ s.rxChan = []) → p.rxFail = true →
      ∃ t, clockEdge p s = .next t ∧ ErrorEntered .ioErr .readFailed true s t ∧
        opResult t = some (.opErr (.ioError .readFailed))) ∧
    (s.phase = .rx → (p.rxValid = false ∨ s.rxChan = []) → p.rxFail = false → p.rxTimeout = true →
      ∃ t, clockEdge p s = .next t ∧ ErrorEntered .ioErr .readTimeout true s t ∧
        opResult t = some (.opErr (.ioError .readTimeout)))

/-- R185, R190, R210 (moves as in log entries 1 and 6): the machine, stepped through a whole exchange from any idle state
with an empty RX channel, does what `Exchange` does: the same bytes reach the TX channel, the host reads `Interpret` of the
command and the outcome, and while the function still waits, so does the block. -/
def Obligations.ExchangeRefinesItsFunction : Prop :=
  ∀ (s : State) (r : Request) (txs : List TxAnswer) (rxs : List RxAnswer), s.phase = .idle → s.rxChan = [] →
    s.inputs = exchangeMoves r txs rxs →
    ∃ t, run (exchangeMoves r txs rxs).length s = .next t ∧ t.inputs = [] ∧
      t.txSent = s.txSent ++ (writeAll r.frame.toList txs).1 ∧
      (match exchange r txs rxs with
        | some e => Ended t ∧ opResult t = some (interpret r.cmd (exchangeOutcome e))
        | none => t.phase ≠ .idle ∧ t.resValid = false)

/-- R223, R197: an operation value is read only for a well-formed frame; after an error there is `OpErr` and no data. -/
def Obligations.ErrorsComeFirst : Prop :=
  ∀ s : State, s.resOpValid = true →
    (s.resKind = .malformed → opResult s = some (.opErr .malformedFrame) ∧ resultData s = none) ∧
    (s.resKind = .ioErr → ResultInv s → (∃ c, opResult s = some (.opErr (.ioError c))) ∧ resultData s = none) ∧
    (∀ v, opResult s = some (.done v) → s.resKind = .ok)

/-- R227, R228: an enrollment sends its three steps in order, whatever each result is, and reports the three results. -/
def Obligations.EnrollmentTakesAllThreeSteps : Prop :=
  ∀ (uid : BitVec 16) (perm : Byte) (r1 r2 r3 : OpResult),
    (Enrollment.begin uid perm).request = some (.enroll1 uid perm) ∧
    ((Enrollment.begin uid perm).stepEnds r1).request = some (.enroll2 uid perm) ∧
    (((Enrollment.begin uid perm).stepEnds r1).stepEnds r2).request = some (.enroll3 uid perm) ∧
    ((((Enrollment.begin uid perm).stepEnds r1).stepEnds r2).stepEnds r3).request = none ∧
    ((((Enrollment.begin uid perm).stepEnds r1).stepEnds r2).stepEnds r3).report = some [r1, r2, r3]

/-! ### The whole machine -/

/-- R26: the phase moves only along IDLE, TX, RX, IDLE and back to IDLE by an error or reset, each for the cause the rule
names: an accepted request, the byte at offset 7 sent, a write failure, the eighth byte taken (alone, or among those of a frame
that arrives whole, log entry 7), a read failure, a read timeout, and a reset (R270). -/
def Obligations.PhaseFollowsTheExchange : Prop :=
  ∀ s t : State, step s = .next t → s.phase ≠ t.phase →
    (s.phase = .idle ∧ t.phase = .tx ∧ ∃ p rest, s.inputs = .edge p :: rest ∧ p.rst = false ∧ p.reqValid = true) ∨
    (s.phase = .tx ∧ t.phase = .rx ∧ s.txIdx = 7#4 ∧ t.txIdx = 8#4 ∧
      ∃ p rest, s.inputs = .edge p :: rest ∧ p.rst = false ∧ p.txFail = false ∧ p.txReady = true) ∨
    (s.phase = .tx ∧ t.phase = .idle ∧ ∃ p rest, s.inputs = .edge p :: rest ∧ p.rst = false ∧ p.txFail = true ∧
      t.resKind = .ioErr ∧ t.resIoCause = .writeFailed) ∨
    (s.phase = .rx ∧ t.phase = .idle ∧ (t.resKind = .ok ∨ t.resKind = .malformed) ∧ s.rxCnt.toNat < 8 ∧
      ((s.rxCnt = 7#4 ∧ s.rxChan ≠ [] ∧ ∃ p rest, s.inputs = .edge p :: rest ∧ p.rst = false ∧ p.rxValid = true) ∨
       (∃ w rest, s.inputs = .response w :: rest))) ∨
    (s.phase = .rx ∧ t.phase = .idle ∧ t.resKind = .ioErr ∧ ∃ p rest, s.inputs = .edge p :: rest ∧ p.rst = false ∧
      ((p.rxFail = true ∧ t.resIoCause = .readFailed) ∨
       (p.rxFail = false ∧ p.rxTimeout = true ∧ t.resIoCause = .readTimeout))) ∨
    (t.phase = .idle ∧ t.resKind = .none ∧ ∃ p rest, s.inputs = .edge p :: rest ∧ p.rst = true)

/-- R21, R76: no step but an accepted request or a reset changes the transmit buffer, and an accepted request loads the frame
of the bytes on the request port at that edge. -/
def Obligations.TxBufferChangesOnlyAtIssue : Prop :=
  ∀ s t : State, step s = .next t → t.txBuf ≠ s.txBuf →
    ∃ p rest, s.inputs = .edge p :: rest ∧
      (p.rst = true ∨ (s.phase = .idle ∧ p.reqValid = true ∧
        t.txBuf = encodeFrame p.request.cmd p.request.p1 p.request.p2 p.request.p3))

/-- R62, R195, R251: bytes handed over are never taken back; a step sends at most the one byte at `tx_idx`, and only in phase
TX. -/
def Obligations.BytesAreSentOnlyInPhaseTx : Prop :=
  ∀ s t : State, step s = .next t →
    t.txSent = s.txSent ∨
    (s.phase = .tx ∧ ∃ h : s.txIdx.toNat < 8, t.txSent = s.txSent ++ [s.txBuf[s.txIdx.toNat]])

/-- R143, R63, R71: in phase TX, and likewise in phase IDLE, `rx_ready` is 0 and no step takes a byte from the RX channel: what
waits goes on waiting, in order. In every phase a byte that arrives stands behind those waiting and changes nothing else;
outside phase RX a whole frame that arrives (log entry 7) does the same with its eight bytes, and no other step adds any. -/
def Obligations.BytesAreTakenOnlyInPhaseRx : Prop :=
  ∀ s : State,
    (∀ b rest, s.inputs = .arrive b :: rest → step s = .next { s with inputs := rest, rxChan := s.rxChan ++ [b] }) ∧
    (s.phase ≠ .rx →
      readPort .rxReady s = some 0#64 ∧
      (∀ w rest, s.inputs = .response w :: rest →
        step s = .next { s with inputs := rest, rxChan := s.rxChan ++ (frameOfWord w).toList }) ∧
      (∀ t, step s = .next t → (∀ b rest, s.inputs ≠ .arrive b :: rest) → (∀ w rest, s.inputs ≠ .response w :: rest) →
        t.rxChan = s.rxChan))

/-- R31, R40, R73, R252, R45: the result register stands, every field of it, until an accepted request, a standalone close,
the last step of an exchange (the byte at offset 7, alone or among those of a whole frame, log entry 7), an error entry or a
reset; and a valid result is cleared only by an accepted request or a reset. -/
def Obligations.ResultStandsUntilTheNextResult : Prop :=
  ∀ s t : State, step s = .next t →
    (ResultSame s t ∨
      (∃ p rest, s.inputs = .edge p :: rest ∧
        (p.rst = true ∨
         (p.rst = false ∧
          ((s.phase = .idle ∧ (p.reqValid = true ∨ p.decClose = true)) ∨
           (s.phase = .tx ∧ p.txFail = true) ∨
           (s.phase = .rx ∧ p.rxValid = true ∧ s.rxChan ≠ [] ∧ s.rxCnt = 7#4) ∨
           (s.phase = .rx ∧ (p.rxValid = false ∨ s.rxChan = []) ∧ (p.rxFail = true ∨ p.rxTimeout = true)))))) ∨
      (∃ w rest, s.inputs = .response w :: rest ∧ s.phase = .rx ∧ s.rxCnt.toNat < 8 ∧ t.phase = .idle)) ∧
    (s.resValid = true → t.resValid = false →
      ∃ p rest, s.inputs = .edge p :: rest ∧ (p.rst = true ∨ (s.phase = .idle ∧ p.reqValid = true)))

/-- R194, R76, R282: while an exchange runs, nothing the host does at its request and decode ports makes a difference. -/
def Obligations.HostCannotTouchARunningExchange : Prop :=
  ∀ (s : State) (p q : Pins), s.phase ≠ .idle → p.rst = q.rst → p.txReady = q.txReady → p.txFail = q.txFail →
    p.rxValid = q.rxValid → p.rxTimeout = q.rxTimeout → p.rxFail = q.rxFail →
    clockEdge p s = clockEdge q s

/-- R249, R45, R260: a transport input outside its phase has no effect and is not remembered, and an edge that asserts no
input of its phase changes nothing at all. -/
def Obligations.TransportEventsOutsideTheirPhaseAreLost : Prop :=
  ∀ (s : State) (p : Pins) (a b c d e : Bool),
    (s.phase = .idle →
      clockEdge { p with txReady := a, txFail := b, rxValid := c, rxTimeout := d, rxFail := e } s = clockEdge p s) ∧
    (s.phase = .tx → clockEdge { p with rxValid := c, rxTimeout := d, rxFail := e } s = clockEdge p s) ∧
    (s.phase = .rx → clockEdge { p with txReady := a, txFail := b } s = clockEdge p s) ∧
    (p.rst = false →
      (s.phase = .idle → p.reqValid = false → p.decClose = false → p.decPush = false → clockEdge p s = .next s) ∧
      (s.phase = .tx → p.txReady = false → p.txFail = false → clockEdge p s = .next s) ∧
      (s.phase = .rx → (p.rxValid = false ∨ s.rxChan = []) → p.rxFail = false → p.rxTimeout = false →
        clockEdge p s = .next s))

/-- R247: ties at one edge: the edge does what it would do with only the winning input asserted. -/
def Obligations.TiesGoToTheStatedWinner : Prop :=
  ∀ (s : State) (p : Pins),
    (p.rst = true → clockEdge p s = clockEdge { rst := true } s) ∧
    (p.rst = false → s.phase = .tx → p.txFail = true → clockEdge p s = clockEdge { txFail := true } s) ∧
    (p.rst = false → s.phase = .rx → s.rxChan ≠ [] → p.rxValid = true →
      clockEdge p s = clockEdge { rxValid := true } s) ∧
    (p.rst = false → s.phase = .rx → p.rxValid = false → p.rxFail = true →
      clockEdge p s = clockEdge { rxFail := true } s) ∧
    (p.rst = false → s.phase = .idle → p.reqValid = true →
      clockEdge p s = clockEdge { reqValid := true, request := p.request } s) ∧
    (p.rst = false → s.phase = .idle → p.reqValid = false → p.decClose = true →
      clockEdge p s = clockEdge { decClose := true } s)

/-- R270, R271: an edge with `rst` abandons whatever runs, without a result, and flushes no channel. -/
def Obligations.ResetEdgeAbandonsWithoutAResult : Prop :=
  ∀ (s : State) (p : Pins), p.rst = true →
    ∃ t, clockEdge p s = .next t ∧ Launch t ∧ t.txIdx = 0#4 ∧ t.resKind = .none ∧ t.resIoCause = .none ∧
      t.resOpValid = false ∧ t.txSent = s.txSent ∧ t.rxChan = s.rxChan ∧ t.inputs = s.inputs

/-- R46, R272: the state after reset has the values the spec gives. -/
def Obligations.ResetStateHasTheSpecValues : Prop :=
  Launch State.reset ∧ State.reset.txIdx = 0#4 ∧ State.reset.resKind = .none ∧ State.reset.resIoCause = .none ∧
    State.reset.resOpValid = false

/-- The invariant holds after reset (R46). -/
def Obligations.ResetStateMeetsTheInvariant : Prop :=
  Inv State.reset

/-- R24, R25, R21, R31: every step, from any state that meets it, keeps the control invariant. -/
def Obligations.StepKeepsTheControlInvariant : Prop :=
  ∀ s t : State, ControlInv s → step s = .next t → ControlInv t

/-- R31, R34 to R38: every step, from any state that meets it, keeps the result register coherent. -/
def Obligations.StepKeepsTheResultInvariant : Prop :=
  ∀ s t : State, ResultInv s → step s = .next t → ResultInv t

/-- R45, R141: the step runs the request that the pins offer in phase IDLE: it is `exec` of the row they decode to, on the
state with that move taken. -/
def Obligations.StepRunsTheOfferedRequest : Prop :=
  ∀ (s : State) (p : Pins) (rest : List Input), s.inputs = .edge p :: rest → s.phase = .idle → p.rst = false →
    p.reqValid = true →
    step s = exec (requestInstr p.request.cmd p.request.p1 p.request.p2 p.request.p3) { s with inputs := rest }

/-- The step runs the response that arrives (log entry 7; R189): it is `exec` of the row the frame decodes to, on the state with
that move taken. -/
def Obligations.StepRunsTheArrivingResponse : Prop :=
  ∀ (s : State) (w : FrameWord) (i : Instr) (rest : List Input), s.inputs = .response w :: rest →
    decode .response (frameOfWord w).toList = .ok i →
    step s = exec i { s with inputs := rest }

/-- The model's own convention (log entries 9 and 11): a table word placed as the next move is run by the very next step, in
every state. -/
def Obligations.PlacedTableWordIsExecuted : Prop :=
  ∀ (s : State) (nbits w : Nat) (i : Instr), decodeTableWord nbits w = some i →
    step (s.withFetchWord nbits w) = exec i s

/-- R39, R71, R276, and U10 of 93_implementation_defined.md (log entry 12): a step stops only where a result data field is
sampled that is unspecified for the result at hand; sampling any other output, or that field at any other time, changes
nothing. That sampling `tx_frame` or `tx_byte` before the first issue step or after an edge with `rst`, where R46 has a model
fault, is no stop is the model's choice (log entries 3 and 4), and so it is for `tx_byte` after the eighth byte (log entry
24). -/
def Obligations.StepsStopOnlyAtAnOutputWithoutValue : Prop :=
  ∀ s : State,
    (∀ r, step s ≠ .refused r) ∧
    (∀ r, step s = .fault r →
      ∃ port rest, s.inputs = .sample port :: rest ∧ r = .noValue port ∧ readPort port s = none ∧
        port ∈ [OutPort.resCmdEcho, .resQ1, .resQ2, .resQ3, .resChk, .resRsv, .resU16, .resAckClass, .resChkOk, .resOpKind] ∧
        (s.resKind ≠ .ok ∨ (port = .resOpKind ∧ s.resOpValid = false))) ∧
    (∀ port rest v, s.inputs = .sample port :: rest → readPort port s = some v →
      step s = .next { s with inputs := rest })

/-- R32, R36 to R39: the data outputs have a value exactly while `res_kind` is OK (`res_op_kind` only when `res_op_valid` is 1
as well), and then it is the recorded field. -/
def Obligations.DataOutputsHaveAValueExactlyWhenOk : Prop :=
  ∀ s : State,
    (s.resKind = .ok →
      readPort .resCmdEcho s = some (s.resData.cmdEcho.zeroExtend 64) ∧ readPort .resQ1 s = some (s.resData.q1.zeroExtend 64) ∧
      readPort .resQ2 s = some (s.resData.q2.zeroExtend 64) ∧ readPort .resQ3 s = some (s.resData.q3.zeroExtend 64) ∧
      readPort .resChk s = some (s.resData.chk.zeroExtend 64) ∧ readPort .resRsv s = some (s.resData.rsv.zeroExtend 64) ∧
      readPort .resU16 s = some (s.resData.u16.zeroExtend 64) ∧
      readPort .resAckClass s = some (s.resData.ackClass.zeroExtend 64) ∧
      readPort .resChkOk s = some ((BitVec.ofBool s.resData.chkOk).zeroExtend 64) ∧
      readPort .resOpKind s = if s.resOpValid then some (s.resData.opKind.zeroExtend 64) else none) ∧
    (s.resKind ≠ .ok → ∀ port ∈ [OutPort.resCmdEcho, .resQ1, .resQ2, .resQ3, .resChk, .resRsv, .resU16, .resAckClass,
      .resChkOk, .resOpKind], readPort port s = none)

/-- R26, R30, R31, R34, R35, R38, R44: the outputs derived from `phase`, the transmit buffer as one word and its byte at
`tx_idx`, and the codes of the result's status. That `tx_frame` and `tx_byte` have a value also before the first issue step,
where R46 says they have none, is the model's choice: the zeros of State.reset (log entry 3), and free values after an edge
with `rst` (log entry 4). -/
def Obligations.OutputsFollowTheState : Prop :=
  ∀ s : State,
    ((readPort .busy s = some 0#64 ↔ s.phase = .idle) ∧ (readPort .busy s = some 1#64 ↔ s.phase ≠ .idle) ∧
      (readPort .decReady s = some 1#64 ↔ s.phase = .idle) ∧ (readPort .rxReady s = some 1#64 ↔ s.phase = .rx) ∧
      (readPort .txValid s = some 1#64 ↔ (s.phase = .tx ∧ s.txIdx.toNat < 8))) ∧
    ((∃ w : FrameWord, readPort .txFrame s = some w ∧
        ∀ (k : Nat) (hk : k < 8), w.extractLsb' (56 - 8 * k) 8 = s.txBuf[k]) ∧
      (∀ h : s.txIdx.toNat < 8, readPort .txByte s = some (s.txBuf[s.txIdx.toNat].zeroExtend 64))) ∧
    ((readPort .resValid s = some (if s.resValid then 1#64 else 0#64)) ∧
      (readPort .resOpValid s = some (if s.resOpValid then 1#64 else 0#64)) ∧
      (s.resKind = .none → readPort .resKind s = some 0#64) ∧ (s.resKind = .ok → readPort .resKind s = some 1#64) ∧
      (s.resKind = .malformed → readPort .resKind s = some 2#64) ∧ (s.resKind = .ioErr → readPort .resKind s = some 3#64) ∧
      (s.resIoCause = .none → readPort .resIoCause s = some 0#64) ∧
      (s.resIoCause = .writeFailed → readPort .resIoCause s = some 1#64) ∧
      (s.resIoCause = .readTimeout → readPort .resIoCause s = some 2#64) ∧
      (s.resIoCause = .readFailed → readPort .resIoCause s = some 3#64))
end

