-- ==== Sys2Proof/Laws/Frame.lean ====
section
/-!
SUPPORT. Laws of frames: the eight bytes of an encoded frame, bytes out of a 16-bit value and back, a frame out of a word
and back, and one byte written into a buffer.
-/

namespace Sys2Proof.Machine

section
variable (c p1 p2 p3 : Byte)

/-- The bytes of an encoded frame, offset by offset (R140). -/
theorem encodeFrame_bytes :
    (encodeFrame c p1 p2 p3)[0] = params.startByte ∧ (encodeFrame c p1 p2 p3)[1] = c ∧
    (encodeFrame c p1 p2 p3)[2] = p1 ∧ (encodeFrame c p1 p2 p3)[3] = p2 ∧ (encodeFrame c p1 p2 p3)[4] = p3 ∧
    (encodeFrame c p1 p2 p3)[5] = chk c p1 p2 p3 ∧ (encodeFrame c p1 p2 p3)[6] = params.reserved ∧
    (encodeFrame c p1 p2 p3)[7] = params.endByte :=
  ⟨rfl, rfl, rfl, rfl, rfl, rfl, rfl, rfl⟩

theorem encodeFrame_toList :
    (encodeFrame c p1 p2 p3).toList =
      [params.startByte, c, p1, p2, p3, chk c p1 p2 p3, params.reserved, params.endByte] := rfl

/-- The placeholder contributes nothing (R131). -/
theorem chk_eq_xor : chk c p1 p2 p3 = c ^^^ p1 ^^^ p2 ^^^ p3 :=
  BitVec.xor_zero

end

/-- Every frame is the literal of its eight bytes. -/
theorem frame_eta (f : Frame) : f = #v[f[0], f[1], f[2], f[3], f[4], f[5], f[6], f[7]] := by
  ext i hi
  match i, hi with
  | 0, _ | 1, _ | 2, _ | 3, _ | 4, _ | 5, _ | 6, _ | 7, _ => rfl

theorem frame_toList (f : Frame) : f.toList = [f[0], f[1], f[2], f[3], f[4], f[5], f[6], f[7]] := by
  conv => lhs; rw [frame_eta f]
  rfl

/-- Splitting a 16-bit value over two bytes loses nothing (R94, R95). -/
theorem joinBytes_high_low (v : Half) : joinBytes (highByte v) (lowByte v) = v := by
  apply BitVec.eq_of_getLsbD_eq
  intro i hi
  rw [joinBytes, BitVec.getLsbD_append]
  by_cases h : i < 8
  · simp [lowByte, h]
  · simp [highByte, h, show i - 8 < 8 by omega, show 8 + (i - 8) = i by omega]

theorem highByte_joinBytes (hi lo : Byte) : highByte (joinBytes hi lo) = hi := by
  apply BitVec.eq_of_getLsbD_eq
  intro i h
  rw [highByte, BitVec.getLsbD_extractLsb', joinBytes, BitVec.getLsbD_append]
  simp [h]

theorem lowByte_joinBytes (hi lo : Byte) : lowByte (joinBytes hi lo) = lo := by
  apply BitVec.eq_of_getLsbD_eq
  intro i h
  rw [lowByte, BitVec.getLsbD_extractLsb', joinBytes, BitVec.getLsbD_append]
  simp [h]

/-- A byte stored inside the buffer is read back (R166). -/
theorem setIfInBounds_self (f : Frame) (i : Nat) (b : Byte) (h : i < 8) :
    (f.setIfInBounds i b)[i] = b := by
  simp

/-- A byte stored leaves every other offset alone (R166). -/
theorem setIfInBounds_other (f : Frame) (i j : Nat) (b : Byte) (hj : j < 8) (hne : i ≠ j) :
    (f.setIfInBounds i b)[j] = f[j] := by
  simp [hne]

/-- A byte beyond the eighth is not stored (R22, R166). -/
theorem setIfInBounds_beyond (f : Frame) (i : Nat) (b : Byte) (h : 8 ≤ i) : f.setIfInBounds i b = f := by
  ext j hj
  simp [show i ≠ j by omega]

end Sys2Proof.Machine
end

