-- ==== Sys2Proof/Laws/Decoder.lean ====
section
/-!
SUPPORT. Laws of the decoder's pure functions: which byte gives the three classes that operations ask for, and that the ports
give a class back in full.
-/

namespace Sys2Proof.Machine

/-- No two acknowledgment codes are equal (R101). -/
theorem classify_params : classify params.ackSuccess = .success ∧ classify params.ackFail = .fail ∧
    classify params.ackDatabaseFull = .databaseFull ∧ classify params.ackNoUser = .noUser ∧
    classify params.ackUserIdOccupied = .userIdOccupied ∧
    classify params.ackFingerprintOccupied = .fingerprintOccupied ∧ classify params.ackTimeout = .timeout := by
  decide

theorem classify_eq_success (b : Byte) : classify b = .success ↔ b = params.ackSuccess := by
  constructor
  · unfold classify
    repeat' split
    all_goals simp_all
  · rintro rfl
    exact classify_params.1

theorem classify_eq_noUser (b : Byte) : classify b = .noUser ↔ b = params.ackNoUser := by
  constructor
  · unfold classify
    repeat' split
    all_goals simp_all
  · rintro rfl
    exact classify_params.2.2.2.1

theorem classify_eq_timeout (b : Byte) : classify b = .timeout ↔ b = params.ackTimeout := by
  constructor
  · unfold classify
    repeat' split
    all_goals simp_all
  · rintro rfl
    exact classify_params.2.2.2.2.2.2

/-- The class code and the raw byte give the class back (R37). -/
theorem ackOfPort_classify (b : Byte) : ackOfPort (classify b).portCode b = classify b := by
  unfold classify
  repeat' split
  all_goals rfl

/-- An operation value is one of six, and its operands are functions of the response (R210, R38). -/
theorem interpretOk_cases (c : Byte) (d : Decoded) :
    interpretOk c d = .status (classify d.q3) ∨ interpretOk c d = .noMatch ∨ interpretOk c d = .noFinger ∨
    interpretOk c d = .matched (u16 d) d.q3 ∨ interpretOk c d = .userCount (u16 d) ∨
    interpretOk c d = .permission d.q3 := by
  unfold interpretOk
  repeat' split
  all_goals simp_all

/-- The ports carry the operation value of a recorded frame (R38). -/
theorem opValueOfPort_frameData (c : Byte) (f : Frame) :
    opValueOfPort (frameData f (interpretOk c (captured f)).portCode) = some (interpretOk c (captured f)) := by
  have h := ackOfPort_classify f[4]
  rcases interpretOk_cases c (captured f) with e | e | e | e | e | e <;> rw [e] <;>
    simp [opValueOfPort, frameData, OpValue.portCode, captured, u16, h]

/-- `Decode` of eight bytes: the two sentinels decide (R157). -/
theorem decodeBuf_frame (f : Frame) : decodeBuf f.toList =
    if f[0] = params.startByte ∧ f[7] = params.endByte then .ok (captured f) else .malformed := by
  rw [frame_toList]; rfl

end Sys2Proof.Machine
end

