-- ==== Sys2Proof/Laws/State.lean ====
section
/-!
SUPPORT. One lemma per field per named update of the state, each true by rfl, so that no proof unfolds a record update.
-/

namespace Sys2Proof.Machine

/-! ### setInputs -/

@[simp] theorem setInputs_txBuf (ms : List Input) (s : State) : (setInputs ms s).txBuf = s.txBuf := rfl
@[simp] theorem setInputs_txIdx (ms : List Input) (s : State) : (setInputs ms s).txIdx = s.txIdx := rfl
@[simp] theorem setInputs_rxBuf (ms : List Input) (s : State) : (setInputs ms s).rxBuf = s.rxBuf := rfl
@[simp] theorem setInputs_rxCnt (ms : List Input) (s : State) : (setInputs ms s).rxCnt = s.rxCnt := rfl
@[simp] theorem setInputs_phase (ms : List Input) (s : State) : (setInputs ms s).phase = s.phase := rfl
@[simp] theorem setInputs_resValid (ms : List Input) (s : State) : (setInputs ms s).resValid = s.resValid := rfl
@[simp] theorem setInputs_resKind (ms : List Input) (s : State) : (setInputs ms s).resKind = s.resKind := rfl
@[simp] theorem setInputs_resIoCause (ms : List Input) (s : State) : (setInputs ms s).resIoCause = s.resIoCause := rfl
@[simp] theorem setInputs_resOpValid (ms : List Input) (s : State) : (setInputs ms s).resOpValid = s.resOpValid := rfl
@[simp] theorem setInputs_resData (ms : List Input) (s : State) : (setInputs ms s).resData = s.resData := rfl
@[simp] theorem setInputs_txSent (ms : List Input) (s : State) : (setInputs ms s).txSent = s.txSent := rfl
@[simp] theorem setInputs_rxChan (ms : List Input) (s : State) : (setInputs ms s).rxChan = s.rxChan := rfl
@[simp] theorem setInputs_inputs (ms : List Input) (s : State) : (setInputs ms s).inputs = ms := rfl
@[simp] theorem setInputs_fresh (ms : List Input) (s : State) : (setInputs ms s).fresh = s.fresh := rfl

/-! ### setRxChan -/

@[simp] theorem setRxChan_txBuf (bs : List Byte) (s : State) : (setRxChan bs s).txBuf = s.txBuf := rfl
@[simp] theorem setRxChan_txIdx (bs : List Byte) (s : State) : (setRxChan bs s).txIdx = s.txIdx := rfl
@[simp] theorem setRxChan_rxBuf (bs : List Byte) (s : State) : (setRxChan bs s).rxBuf = s.rxBuf := rfl
@[simp] theorem setRxChan_rxCnt (bs : List Byte) (s : State) : (setRxChan bs s).rxCnt = s.rxCnt := rfl
@[simp] theorem setRxChan_phase (bs : List Byte) (s : State) : (setRxChan bs s).phase = s.phase := rfl
@[simp] theorem setRxChan_resValid (bs : List Byte) (s : State) : (setRxChan bs s).resValid = s.resValid := rfl
@[simp] theorem setRxChan_resKind (bs : List Byte) (s : State) : (setRxChan bs s).resKind = s.resKind := rfl
@[simp] theorem setRxChan_resIoCause (bs : List Byte) (s : State) : (setRxChan bs s).resIoCause = s.resIoCause := rfl
@[simp] theorem setRxChan_resOpValid (bs : List Byte) (s : State) : (setRxChan bs s).resOpValid = s.resOpValid := rfl
@[simp] theorem setRxChan_resData (bs : List Byte) (s : State) : (setRxChan bs s).resData = s.resData := rfl
@[simp] theorem setRxChan_txSent (bs : List Byte) (s : State) : (setRxChan bs s).txSent = s.txSent := rfl
@[simp] theorem setRxChan_rxChan (bs : List Byte) (s : State) : (setRxChan bs s).rxChan = bs := rfl
@[simp] theorem setRxChan_inputs (bs : List Byte) (s : State) : (setRxChan bs s).inputs = s.inputs := rfl
@[simp] theorem setRxChan_fresh (bs : List Byte) (s : State) : (setRxChan bs s).fresh = s.fresh := rfl

/-! ### forgetData -/

@[simp] theorem forgetData_txBuf (s : State) : (forgetData s).txBuf = s.txBuf := rfl
@[simp] theorem forgetData_txIdx (s : State) : (forgetData s).txIdx = s.txIdx := rfl
@[simp] theorem forgetData_rxBuf (s : State) : (forgetData s).rxBuf = s.rxBuf := rfl
@[simp] theorem forgetData_rxCnt (s : State) : (forgetData s).rxCnt = s.rxCnt := rfl
@[simp] theorem forgetData_phase (s : State) : (forgetData s).phase = s.phase := rfl
@[simp] theorem forgetData_resValid (s : State) : (forgetData s).resValid = s.resValid := rfl
@[simp] theorem forgetData_resKind (s : State) : (forgetData s).resKind = s.resKind := rfl
@[simp] theorem forgetData_resIoCause (s : State) : (forgetData s).resIoCause = s.resIoCause := rfl
@[simp] theorem forgetData_resOpValid (s : State) : (forgetData s).resOpValid = s.resOpValid := rfl
@[simp] theorem forgetData_resData (s : State) : (forgetData s).resData = freeResData s.fresh := rfl
@[simp] theorem forgetData_txSent (s : State) : (forgetData s).txSent = s.txSent := rfl
@[simp] theorem forgetData_rxChan (s : State) : (forgetData s).rxChan = s.rxChan := rfl
@[simp] theorem forgetData_inputs (s : State) : (forgetData s).inputs = s.inputs := rfl
@[simp] theorem forgetData_fresh (s : State) : (forgetData s).fresh = s.fresh + 6 := rfl

/-! ### applyRst -/

@[simp] theorem applyRst_txBuf (s : State) : (applyRst s).txBuf = freeFrame (s.fresh + 6) := rfl
@[simp] theorem applyRst_txIdx (s : State) : (applyRst s).txIdx = 0#4 := rfl
@[simp] theorem applyRst_rxBuf (s : State) : (applyRst s).rxBuf = freeFrame (s.fresh + 14) := rfl
@[simp] theorem applyRst_rxCnt (s : State) : (applyRst s).rxCnt = 0#4 := rfl
@[simp] theorem applyRst_phase (s : State) : (applyRst s).phase = .idle := rfl
@[simp] theorem applyRst_resValid (s : State) : (applyRst s).resValid = false := rfl
@[simp] theorem applyRst_resKind (s : State) : (applyRst s).resKind = .none := rfl
@[simp] theorem applyRst_resIoCause (s : State) : (applyRst s).resIoCause = .none := rfl
@[simp] theorem applyRst_resOpValid (s : State) : (applyRst s).resOpValid = false := rfl
@[simp] theorem applyRst_resData (s : State) : (applyRst s).resData = freeResData s.fresh := rfl
@[simp] theorem applyRst_txSent (s : State) : (applyRst s).txSent = s.txSent := rfl
@[simp] theorem applyRst_rxChan (s : State) : (applyRst s).rxChan = s.rxChan := rfl
@[simp] theorem applyRst_inputs (s : State) : (applyRst s).inputs = s.inputs := rfl
@[simp] theorem applyRst_fresh (s : State) : (applyRst s).fresh = s.fresh + 22 := rfl

/-! ### enterError -/

@[simp] theorem enterError_txBuf (k : ResKind) (c : ResIoCause) (x : Bool) (s : State) : (enterError k c x s).txBuf = s.txBuf := rfl
@[simp] theorem enterError_txIdx (k : ResKind) (c : ResIoCause) (x : Bool) (s : State) : (enterError k c x s).txIdx = s.txIdx := rfl
@[simp] theorem enterError_rxBuf (k : ResKind) (c : ResIoCause) (x : Bool) (s : State) : (enterError k c x s).rxBuf = s.rxBuf := rfl
@[simp] theorem enterError_rxCnt (k : ResKind) (c : ResIoCause) (x : Bool) (s : State) : (enterError k c x s).rxCnt = 0#4 := rfl
@[simp] theorem enterError_phase (k : ResKind) (c : ResIoCause) (x : Bool) (s : State) : (enterError k c x s).phase = .idle := rfl
@[simp] theorem enterError_resValid (k : ResKind) (c : ResIoCause) (x : Bool) (s : State) : (enterError k c x s).resValid = true := rfl
@[simp] theorem enterError_resKind (k : ResKind) (c : ResIoCause) (x : Bool) (s : State) : (enterError k c x s).resKind = k := rfl
@[simp] theorem enterError_resIoCause (k : ResKind) (c : ResIoCause) (x : Bool) (s : State) : (enterError k c x s).resIoCause = c := rfl
@[simp] theorem enterError_resOpValid (k : ResKind) (c : ResIoCause) (x : Bool) (s : State) : (enterError k c x s).resOpValid = x := rfl
@[simp] theorem enterError_resData (k : ResKind) (c : ResIoCause) (x : Bool) (s : State) : (enterError k c x s).resData = freeResData s.fresh := rfl
@[simp] theorem enterError_txSent (k : ResKind) (c : ResIoCause) (x : Bool) (s : State) : (enterError k c x s).txSent = s.txSent := rfl
@[simp] theorem enterError_rxChan (k : ResKind) (c : ResIoCause) (x : Bool) (s : State) : (enterError k c x s).rxChan = s.rxChan := rfl
@[simp] theorem enterError_inputs (k : ResKind) (c : ResIoCause) (x : Bool) (s : State) : (enterError k c x s).inputs = s.inputs := rfl
@[simp] theorem enterError_fresh (k : ResKind) (c : ResIoCause) (x : Bool) (s : State) : (enterError k c x s).fresh = s.fresh + 6 := rfl

/-! ### issue -/

@[simp] theorem issue_txBuf (r : Request) (s : State) : (issue r s).txBuf = r.frame := rfl
@[simp] theorem issue_txIdx (r : Request) (s : State) : (issue r s).txIdx = 0#4 := rfl
@[simp] theorem issue_rxBuf (r : Request) (s : State) : (issue r s).rxBuf = s.rxBuf := rfl
@[simp] theorem issue_rxCnt (r : Request) (s : State) : (issue r s).rxCnt = 0#4 := rfl
@[simp] theorem issue_phase (r : Request) (s : State) : (issue r s).phase = .tx := rfl
@[simp] theorem issue_resValid (r : Request) (s : State) : (issue r s).resValid = false := rfl
@[simp] theorem issue_resKind (r : Request) (s : State) : (issue r s).resKind = .none := rfl
@[simp] theorem issue_resIoCause (r : Request) (s : State) : (issue r s).resIoCause = .none := rfl
@[simp] theorem issue_resOpValid (r : Request) (s : State) : (issue r s).resOpValid = false := rfl
@[simp] theorem issue_resData (r : Request) (s : State) : (issue r s).resData = freeResData s.fresh := rfl
@[simp] theorem issue_txSent (r : Request) (s : State) : (issue r s).txSent = s.txSent := rfl
@[simp] theorem issue_rxChan (r : Request) (s : State) : (issue r s).rxChan = s.rxChan := rfl
@[simp] theorem issue_inputs (r : Request) (s : State) : (issue r s).inputs = s.inputs := rfl
@[simp] theorem issue_fresh (r : Request) (s : State) : (issue r s).fresh = s.fresh + 6 := rfl

/-! ### chanWrite -/

@[simp] theorem chanWrite_txBuf (b : Byte) (s : State) : (chanWrite b s).txBuf = s.txBuf := rfl
@[simp] theorem chanWrite_txIdx (b : Byte) (s : State) : (chanWrite b s).txIdx = s.txIdx := rfl
@[simp] theorem chanWrite_rxBuf (b : Byte) (s : State) : (chanWrite b s).rxBuf = s.rxBuf := rfl
@[simp] theorem chanWrite_rxCnt (b : Byte) (s : State) : (chanWrite b s).rxCnt = s.rxCnt := rfl
@[simp] theorem chanWrite_phase (b : Byte) (s : State) : (chanWrite b s).phase = s.phase := rfl
@[simp] theorem chanWrite_resValid (b : Byte) (s : State) : (chanWrite b s).resValid = s.resValid := rfl
@[simp] theorem chanWrite_resKind (b : Byte) (s : State) : (chanWrite b s).resKind = s.resKind := rfl
@[simp] theorem chanWrite_resIoCause (b : Byte) (s : State) : (chanWrite b s).resIoCause = s.resIoCause := rfl
@[simp] theorem chanWrite_resOpValid (b : Byte) (s : State) : (chanWrite b s).resOpValid = s.resOpValid := rfl
@[simp] theorem chanWrite_resData (b : Byte) (s : State) : (chanWrite b s).resData = s.resData := rfl
@[simp] theorem chanWrite_txSent (b : Byte) (s : State) : (chanWrite b s).txSent = s.txSent ++ [b] := rfl
@[simp] theorem chanWrite_rxChan (b : Byte) (s : State) : (chanWrite b s).rxChan = s.rxChan := rfl
@[simp] theorem chanWrite_inputs (b : Byte) (s : State) : (chanWrite b s).inputs = s.inputs := rfl
@[simp] theorem chanWrite_fresh (b : Byte) (s : State) : (chanWrite b s).fresh = s.fresh := rfl

/-! ### storeByte -/

@[simp] theorem storeByte_txBuf (b : Byte) (s : State) : (storeByte b s).txBuf = s.txBuf := rfl
@[simp] theorem storeByte_txIdx (b : Byte) (s : State) : (storeByte b s).txIdx = s.txIdx := rfl
@[simp] theorem storeByte_rxBuf (b : Byte) (s : State) : (storeByte b s).rxBuf = s.rxBuf.setIfInBounds s.rxCnt.toNat b := rfl
@[simp] theorem storeByte_rxCnt (b : Byte) (s : State) : (storeByte b s).rxCnt = countUp s.rxCnt := rfl
@[simp] theorem storeByte_phase (b : Byte) (s : State) : (storeByte b s).phase = s.phase := rfl
@[simp] theorem storeByte_resValid (b : Byte) (s : State) : (storeByte b s).resValid = s.resValid := rfl
@[simp] theorem storeByte_resKind (b : Byte) (s : State) : (storeByte b s).resKind = s.resKind := rfl
@[simp] theorem storeByte_resIoCause (b : Byte) (s : State) : (storeByte b s).resIoCause = s.resIoCause := rfl
@[simp] theorem storeByte_resOpValid (b : Byte) (s : State) : (storeByte b s).resOpValid = s.resOpValid := rfl
@[simp] theorem storeByte_resData (b : Byte) (s : State) : (storeByte b s).resData = s.resData := rfl
@[simp] theorem storeByte_txSent (b : Byte) (s : State) : (storeByte b s).txSent = s.txSent := rfl
@[simp] theorem storeByte_rxChan (b : Byte) (s : State) : (storeByte b s).rxChan = s.rxChan := rfl
@[simp] theorem storeByte_inputs (b : Byte) (s : State) : (storeByte b s).inputs = s.inputs := rfl
@[simp] theorem storeByte_fresh (b : Byte) (s : State) : (storeByte b s).fresh = s.fresh := rfl

/-! ### arriveByte -/

@[simp] theorem arriveByte_txBuf (b : Byte) (s : State) : (arriveByte b s).txBuf = s.txBuf := rfl
@[simp] theorem arriveByte_txIdx (b : Byte) (s : State) : (arriveByte b s).txIdx = s.txIdx := rfl
@[simp] theorem arriveByte_rxBuf (b : Byte) (s : State) : (arriveByte b s).rxBuf = s.rxBuf := rfl
@[simp] theorem arriveByte_rxCnt (b : Byte) (s : State) : (arriveByte b s).rxCnt = s.rxCnt := rfl
@[simp] theorem arriveByte_phase (b : Byte) (s : State) : (arriveByte b s).phase = s.phase := rfl
@[simp] theorem arriveByte_resValid (b : Byte) (s : State) : (arriveByte b s).resValid = s.resValid := rfl
@[simp] theorem arriveByte_resKind (b : Byte) (s : State) : (arriveByte b s).resKind = s.resKind := rfl
@[simp] theorem arriveByte_resIoCause (b : Byte) (s : State) : (arriveByte b s).resIoCause = s.resIoCause := rfl
@[simp] theorem arriveByte_resOpValid (b : Byte) (s : State) : (arriveByte b s).resOpValid = s.resOpValid := rfl
@[simp] theorem arriveByte_resData (b : Byte) (s : State) : (arriveByte b s).resData = s.resData := rfl
@[simp] theorem arriveByte_txSent (b : Byte) (s : State) : (arriveByte b s).txSent = s.txSent := rfl
@[simp] theorem arriveByte_rxChan (b : Byte) (s : State) : (arriveByte b s).rxChan = s.rxChan ++ [b] := rfl
@[simp] theorem arriveByte_inputs (b : Byte) (s : State) : (arriveByte b s).inputs = s.inputs := rfl
@[simp] theorem arriveByte_fresh (b : Byte) (s : State) : (arriveByte b s).fresh = s.fresh := rfl

/-! ### recordExchange -/

@[simp] theorem recordExchange_txBuf (s : State) : (recordExchange s).txBuf = s.txBuf := rfl
@[simp] theorem recordExchange_txIdx (s : State) : (recordExchange s).txIdx = s.txIdx := rfl
@[simp] theorem recordExchange_rxBuf (s : State) : (recordExchange s).rxBuf = s.rxBuf := rfl
@[simp] theorem recordExchange_rxCnt (s : State) : (recordExchange s).rxCnt = 0#4 := rfl
@[simp] theorem recordExchange_phase (s : State) : (recordExchange s).phase = .idle := rfl
@[simp] theorem recordExchange_resValid (s : State) : (recordExchange s).resValid = true := rfl
@[simp] theorem recordExchange_resKind (s : State) : (recordExchange s).resKind = .ok := rfl
@[simp] theorem recordExchange_resIoCause (s : State) : (recordExchange s).resIoCause = .none := rfl
@[simp] theorem recordExchange_resOpValid (s : State) : (recordExchange s).resOpValid = true := rfl
@[simp] theorem recordExchange_resData (s : State) : (recordExchange s).resData = frameData s.rxBuf (interpretOk s.txBuf[1] (captured s.rxBuf)).portCode := rfl
@[simp] theorem recordExchange_txSent (s : State) : (recordExchange s).txSent = s.txSent := rfl
@[simp] theorem recordExchange_rxChan (s : State) : (recordExchange s).rxChan = s.rxChan := rfl
@[simp] theorem recordExchange_inputs (s : State) : (recordExchange s).inputs = s.inputs := rfl
@[simp] theorem recordExchange_fresh (s : State) : (recordExchange s).fresh = s.fresh := rfl

/-! ### recordStandalone -/

@[simp] theorem recordStandalone_txBuf (s : State) : (recordStandalone s).txBuf = s.txBuf := rfl
@[simp] theorem recordStandalone_txIdx (s : State) : (recordStandalone s).txIdx = s.txIdx := rfl
@[simp] theorem recordStandalone_rxBuf (s : State) : (recordStandalone s).rxBuf = s.rxBuf := rfl
@[simp] theorem recordStandalone_rxCnt (s : State) : (recordStandalone s).rxCnt = 0#4 := rfl
@[simp] theorem recordStandalone_phase (s : State) : (recordStandalone s).phase = s.phase := rfl
@[simp] theorem recordStandalone_resValid (s : State) : (recordStandalone s).resValid = true := rfl
@[simp] theorem recordStandalone_resKind (s : State) : (recordStandalone s).resKind = .ok := rfl
@[simp] theorem recordStandalone_resIoCause (s : State) : (recordStandalone s).resIoCause = .none := rfl
@[simp] theorem recordStandalone_resOpValid (s : State) : (recordStandalone s).resOpValid = false := rfl
@[simp] theorem recordStandalone_resData (s : State) : (recordStandalone s).resData = frameData s.rxBuf (Config.freeCode s.fresh) := rfl
@[simp] theorem recordStandalone_txSent (s : State) : (recordStandalone s).txSent = s.txSent := rfl
@[simp] theorem recordStandalone_rxChan (s : State) : (recordStandalone s).rxChan = s.rxChan := rfl
@[simp] theorem recordStandalone_inputs (s : State) : (recordStandalone s).inputs = s.inputs := rfl
@[simp] theorem recordStandalone_fresh (s : State) : (recordStandalone s).fresh = s.fresh + 1 := rfl

end Sys2Proof.Machine
end

