-- ==== Sys2Proof/Laws/Exec.lean ====
section
/-!
SUPPORT. What each shared operation and each step can do, said once: the meaning of a request row and of a response row, the
cases of push, close and offer, and the inversion of a step.
-/

namespace Sys2Proof.Machine

/-! ### Requests and responses -/

theorem offerRequest_idle (r : Request) (s : State) (h : s.phase = .idle) : offerRequest r s = issue r s := by
  simp [offerRequest, h]

theorem offerRequest_busy (r : Request) (s : State) (h : s.phase ≠ .idle) : offerRequest r s = s := by
  cases hp : s.phase <;> simp_all [offerRequest]

/-- A request row offers `BuildReq`'s four bytes. -/
theorem exec_request (i : Instr) (r : Request) (h : buildReq i = some r) (s : State) :
    exec i s = .next (offerRequest r s) := by
  cases i <;> simp only [buildReq, Option.some.injEq, reduceCtorEq] at h <;> subst h <;> rfl

/-- A response row receives its frame. -/
theorem exec_response (i : Instr) (h : i.direction = .response) (s : State) :
    exec i s = .next (receiveFrame (encode i) s) := by
  cases i <;> first | rfl | simp [Instr.direction] at h

/-- Every instruction answers a next state, in every state. -/
theorem exec_next (i : Instr) (s : State) : ∃ t, exec i s = .next t := by
  cases i <;> exact ⟨_, rfl⟩

theorem buildReq_requestInstr (c p1 p2 p3 : Byte) : buildReq (requestInstr c p1 p2 p3) = some ⟨c, p1, p2, p3⟩ := by
  unfold requestInstr
  repeat' split
  all_goals simp_all [buildReq, formUP, formU, formZ, highByte_joinBytes, lowByte_joinBytes]

/-- A request at the port runs the row it decodes to, which offers exactly these four bytes (R76, R211). -/
theorem exec_requestInstr (c p1 p2 p3 : Byte) (s : State) :
    exec (requestInstr c p1 p2 p3) s = .next (offerRequest ⟨c, p1, p2, p3⟩ s) :=
  exec_request _ _ (buildReq_requestInstr c p1 p2 p3) s

/-! ### TX byte step -/

theorem sendByte_enabled (s : State) (h : s.txIdx.toNat < 8) :
    sendByte s = { s with
      txSent := s.txSent ++ [s.txBuf[s.txIdx.toNat]]
      txIdx  := s.txIdx + 1#4
      phase  := if s.txIdx + 1#4 = 8#4 then .rx else s.phase } := by
  simp [sendByte, h, chanWrite]

theorem sendByte_disabled (s : State) (h : ¬ s.txIdx.toNat < 8) : sendByte s = s := by
  simp [sendByte, h]

/-! ### Close and push -/

theorem bufferGood_iff (s : State) :
    bufferGood s = true ↔ s.rxCnt = 8#4 ∧ s.rxBuf[0] = params.startByte ∧ s.rxBuf[7] = params.endByte := by
  simp [bufferGood, and_assoc]

theorem closeExchange_good (s : State) (h : bufferGood s = true) : closeExchange s = recordExchange s := by
  simp [closeExchange, h]

theorem closeExchange_bad (s : State) (h : bufferGood s = false) : closeExchange s = raiseMalformed true s := by
  simp [closeExchange, h]

theorem closeStandalone_good (s : State) (h : bufferGood s = true) : closeStandalone s = recordStandalone s := by
  simp [closeStandalone, h]

theorem closeStandalone_bad (s : State) (h : bufferGood s = false) : closeStandalone s = raiseMalformed false s := by
  simp [closeStandalone, h]

theorem countUp_toNat (n : BitVec 4) : (countUp n).toNat = min (n.toNat + 1) 9 := by
  simp only [countUp, BitVec.toNat_ofNat]
  omega

/-- The push that reaches 8 is the one at count 7. -/
theorem countUp_eq_eight (n : BitVec 4) : countUp n = 8#4 ↔ n = 7#4 := by
  constructor
  · intro h
    have := congrArg BitVec.toNat h
    rw [countUp_toNat] at this
    apply BitVec.eq_of_toNat_eq
    simp at this ⊢
    omega
  · rintro rfl
    rfl

theorem pushExchange_last (b : Byte) (s : State) (h : s.rxCnt = 7#4) :
    pushExchange b s = closeExchange (storeByte b s) := by
  simp [pushExchange, countUp_eq_eight, h]

theorem pushExchange_more (b : Byte) (s : State) (h : s.rxCnt ≠ 7#4) : pushExchange b s = storeByte b s := by
  simp [pushExchange, countUp_eq_eight, h]

/-! ### RX channel -/

theorem offerByte_rx (s : State) (b : Byte) (rest : List Byte) (hp : s.phase = .rx) (hc : s.rxChan = b :: rest) :
    offerByte s = pushExchange b (setRxChan rest s) := by
  simp [offerByte, hp, hc]

/-- Outside phase RX, or with nothing waiting, an offered byte is not taken (R63, R143). -/
theorem offerByte_waits (s : State) (h : s.phase ≠ .rx ∨ s.rxChan = []) : offerByte s = s := by
  cases hp : s.phase <;> cases hc : s.rxChan <;> simp_all [offerByte]

theorem offerBytes_waits (n : Nat) (s : State) (h : s.phase ≠ .rx) : offerBytes n s = s := by
  induction n with
  | zero => rfl
  | succ n ih => rw [offerBytes, offerByte_waits s (.inl h), ih]

/-- A frame that arrives outside phase RX waits behind the bytes already in the channel (R63, R143). -/
theorem receiveFrame_waits (f : Frame) (s : State) (h : s.phase ≠ .rx) :
    receiveFrame f s = setRxChan (s.rxChan ++ f.toList) s :=
  offerBytes_waits 8 _ h

/-- A property that every taken byte keeps is kept by a whole frame. -/
theorem receiveFrame_keeps (P : State → Prop) (hoff : ∀ s, P s → P (offerByte s))
    (f : Frame) (s : State) (h : P (setRxChan (s.rxChan ++ f.toList) s)) : P (receiveFrame f s) := by
  have go : ∀ n s, P s → P (offerBytes n s) := by
    intro n
    induction n with
    | zero => exact fun _ h => h
    | succ n ih => exact fun s h => ih _ (hoff s h)
  exact go 8 _ h

/-- The receiving side of a state, set at once. -/
def withRx (buf : Frame) (n : BitVec 4) (chan : List Byte) (s : State) : State :=
  { s with rxBuf := buf, rxCnt := n, rxChan := chan }

theorem withRx_self (s : State) : withRx s.rxBuf s.rxCnt s.rxChan s = s := rfl

/-- A byte taken before the seventh place is stored at `rx_cnt`, and the count goes up by one. -/
theorem offerByte_collects (buf : Frame) (k : Nat) (b : Byte) (rest : List Byte) (s : State) (hp : s.phase = .rx)
    (hk : k < 7) : offerByte (withRx buf (BitVec.ofNat 4 k) (b :: rest) s) =
      withRx (buf.setIfInBounds k b) (BitVec.ofNat 4 (k + 1)) rest s := by
  have hup : ∀ k : Nat, k < 7 → countUp (BitVec.ofNat 4 k) = BitVec.ofNat 4 (k + 1) := by decide
  have hne : BitVec.ofNat 4 k ≠ 7#4 := by
    intro h
    have := congrArg BitVec.toNat h
    simp at this
    omega
  rw [offerByte_rx (withRx buf (BitVec.ofNat 4 k) (b :: rest) s) b rest hp rfl,
    pushExchange_more b (setRxChan rest (withRx buf (BitVec.ofNat 4 k) (b :: rest) s)) hne]
  simp only [storeByte, setRxChan, withRx, hup k hk, BitVec.toNat_ofNat]
  rw [Nat.mod_eq_of_lt (by omega)]

/-- The eighth byte closes. -/
theorem offerByte_closes (buf : Frame) (b : Byte) (rest : List Byte) (s : State) (hp : s.phase = .rx) :
    offerByte (withRx buf 7#4 (b :: rest) s) = closeExchange (withRx (buf.setIfInBounds 7 b) 8#4 rest s) := by
  rw [offerByte_rx (withRx buf 7#4 (b :: rest) s) b rest hp rfl,
    pushExchange_last b (setRxChan rest (withRx buf 7#4 (b :: rest) s)) rfl]
  rfl

theorem fill_frame (f : Frame) (b0 b1 b2 b3 b4 b5 b6 b7 : Byte) :
    (((((((f.setIfInBounds 0 b0).setIfInBounds 1 b1).setIfInBounds 2 b2).setIfInBounds 3 b3).setIfInBounds 4
      b4).setIfInBounds 5 b5).setIfInBounds 6 b6).setIfInBounds 7 b7 = #v[b0, b1, b2, b3, b4, b5, b6, b7] := by
  rw [frame_eta f]
  rfl

/-- Eight bytes waiting at the start of phase RX are taken whatever they are, and the frame they make is closed. -/
theorem offerBytes_eight (s : State) (g : Frame) (rest : List Byte) (hp : s.phase = .rx) (hn : s.rxCnt = 0#4)
    (hc : s.rxChan = g.toList ++ rest) :
    offerBytes 8 s = closeExchange (withRx g 8#4 rest s) := by
  rw [← withRx_self s, hn, hc, frame_toList]
  simp only [offerBytes, List.cons_append, List.nil_append]
  rw [offerByte_collects _ 0 g[0] _ s hp (by omega), offerByte_collects _ 1 g[1] _ s hp (by omega),
    offerByte_collects _ 2 g[2] _ s hp (by omega), offerByte_collects _ 3 g[3] _ s hp (by omega),
    offerByte_collects _ 4 g[4] _ s hp (by omega), offerByte_collects _ 5 g[5] _ s hp (by omega),
    offerByte_collects _ 6 g[6] _ s hp (by omega), offerByte_closes _ g[7] _ s hp, fill_frame, ← frame_eta]
  rfl

theorem closeExchange_idle (s : State) : (closeExchange s).phase = .idle := by
  unfold closeExchange
  split <;> rfl

/-- A whole frame that arrives at the start of phase RX with nothing stale waiting is collected and closed. -/
theorem receiveFrame_eight (f : Frame) (s : State) (hp : s.phase = .rx) (hn : s.rxCnt = 0#4) (hc : s.rxChan = []) :
    receiveFrame f s = closeExchange (withRx f 8#4 [] s) := by
  unfold receiveFrame
  rw [offerBytes_eight (setRxChan (s.rxChan ++ f.toList) s) f [] hp hn (by simp [hc])]
  rfl

/-! ### What a step can do -/

/-- The moves of the machine, each with what makes it possible. -/
inductive Effect (s : State) : State → Prop where
  | hold : Effect s s
  | rst : Effect s (applyRst s)
  | issue (r : Request) : s.phase = .idle → Effect s (issue r s)
  | closeStandalone : s.phase = .idle → Effect s (closeStandalone s)
  | pushStandalone (b : Byte) : s.phase = .idle → Effect s (pushStandalone b s)
  | writeFailed : s.phase = .tx → Effect s (raiseIoError .writeFailed s)
  | sendByte : s.phase = .tx → s.txIdx.toNat < 8 → Effect s (sendByte s)
  | takeByte : s.phase = .rx → s.rxChan ≠ [] → Effect s (offerByte s)
  | readFailed : s.phase = .rx → Effect s (raiseIoError .readFailed s)
  | readTimeout : s.phase = .rx → Effect s (raiseIoError .readTimeout s)
  | arrive (b : Byte) : Effect s (arriveByte b s)
  | receive (f : Frame) : Effect s (receiveFrame f s)

theorem offerRequest_effect (r : Request) (s : State) : Effect s (offerRequest r s) := by
  by_cases h : s.phase = .idle
  · rw [offerRequest_idle r s h]; exact .issue r h
  · rw [offerRequest_busy r s h]; exact .hold

theorem edgeTx_effect (p : Pins) (s : State) (h : s.phase = .tx) : Effect s (edgeTx p s) := by
  unfold edgeTx
  split
  · exact .writeFailed h
  split
  · by_cases hi : s.txIdx.toNat < 8
    · exact .sendByte h hi
    · rw [sendByte_disabled s hi]; exact .hold
  · exact .hold

theorem edgeRx_effect (p : Pins) (s : State) (h : s.phase = .rx) : Effect s (edgeRx p s) := by
  unfold edgeRx
  split
  · next hc => exact .takeByte h hc.2
  split
  · exact .readFailed h
  split
  · exact .readTimeout h
  · exact .hold

theorem clockEdge_effect (p : Pins) (s t : State) (h : clockEdge p s = .next t) : Effect s t := by
  unfold clockEdge at h
  split at h
  · cases h; exact .rst
  split at h
  · next hp =>
    unfold edgeIdle at h
    rw [exec_requestInstr] at h
    split at h
    · cases h; exact offerRequest_effect _ s
    split at h
    · cases h; exact .closeStandalone hp
    split at h
    · cases h; exact .pushStandalone _ hp
    · cases h; exact .hold
  · next hp => cases h; exact edgeTx_effect p s hp
  · next hp => cases h; exact edgeRx_effect p s hp

theorem responseInstr_direction (d : Decoded) : (responseInstr d).direction = .response := by
  unfold responseInstr
  split <;> rfl

theorem encode_responseInstr (d : Decoded) :
    encode (responseInstr d) = responseFrame d.cmdEcho d.q1 d.q2 d.q3 d.chk d.rsv := by
  unfold responseInstr
  split
  all_goals
    next h =>
      unfold classify at h
      repeat' split at h
      all_goals simp_all [encode]

/-- A response row is the frame it was decoded from. -/
theorem decodeResponse_row (f : Frame) (i : Instr) (h : decodeResponse f = .ok i) :
    i.direction = .response ∧ encode i = f := by
  unfold decodeResponse at h
  split at h
  · cases h
  split at h
  · cases h
  · next h0 h7 =>
    cases h
    refine ⟨responseInstr_direction _, ?_⟩
    rw [encode_responseInstr, frame_eta f, not_not.mp h0, not_not.mp h7]
    rfl

/-- A whole frame is received whether it is a row or not. -/
theorem receiveWord_next (w : FrameWord) (s : State) : receiveWord w s = .next (receiveFrame (frameOfWord w) s) := by
  unfold receiveWord
  split
  · next i hi =>
    obtain ⟨hdir, henc⟩ := decodeResponse_row _ i hi
    rw [exec_response i hdir s, henc]
  · rfl

theorem takeInput_effect (m : Input) (s t : State) (h : takeInput m s = .next t) : Effect s t := by
  cases m with
  | edge p => exact clockEdge_effect p s t h
  | arrive b => cases h; exact .arrive b
  | response w =>
    rw [takeInput, receiveWord_next] at h
    cases h; exact .receive _
  | sample port =>
    simp only [takeInput, sampleOutput] at h
    split at h
    · cases h; exact .hold
    · cases h

/-- The inversion of a step: with no move to come it holds; otherwise the next move is taken off the list and has one of the
effects above. -/
theorem step_cases (s t : State) (h : step s = .next t) :
    (s.inputs = [] ∧ t = s) ∨ ∃ m rest, s.inputs = m :: rest ∧ Effect (setInputs rest s) t := by
  unfold step takeNext at h
  split at h
  · next hi => cases h; exact .inl ⟨hi, rfl⟩
  · next m rest hi => exact .inr ⟨m, rest, hi, takeInput_effect m _ t h⟩

/-! ### Runs -/

theorem run_step (n : Nat) (s t : State) (h : step s = .next t) : run (n + 1) s = run n t := by
  rw [run, h]

/-- A step takes the move at the head of the list. -/
theorem step_input (s : State) (m : Input) (rest : List Input) (h : s.inputs = m :: rest) :
    step s = takeInput m (setInputs rest s) := by
  simp [step, takeNext, h]

theorem run_add (m n : Nat) (s t : State) (h : run m s = .next t) : run (m + n) s = run n t := by
  induction m generalizing s with
  | zero => cases h; rw [Nat.zero_add]
  | succ m ih =>
    rw [run] at h
    split at h
    · next u hu => rw [Nat.succ_add, run_step _ s u hu, ih u h]
    · cases h
    · cases h

end Sys2Proof.Machine
end

