-- ==== Sys2Proof/Laws/Exchange.lean ====
section
/-!
SUPPORT. Laws of a whole exchange, half by half: the write-all in phase TX, the read-exact in phase RX, and the moves that have
no effect on the block when its half is over.
-/

namespace Sys2Proof.Machine

/-- One step of a run whose next move is known. -/
theorem run_input (n : Nat) (s t : State) (m : Input) (rest : List Input) (hi : s.inputs = m :: rest)
    (ht : takeInput m (setInputs rest s) = .next t) : run (n + 1) s = run n t :=
  run_step n s t (by rw [step_input s m rest hi, ht])

/-- What the host reads after the close step of an exchange (R167, R210). -/
theorem opResult_close (s : State) : opResult (closeExchange s) =
    some (if bufferGood s then .done (interpretOk s.txBuf[1] (captured s.rxBuf)) else .opErr .malformedFrame) := by
  unfold closeExchange
  split
  · simp [opResult, recordExchange, opValueOfPort_frameData]
  · simp [opResult, raiseMalformed, enterError]

/-- Outside phase TX a write answer has no effect (R249). -/
theorem run_txAnswers_outside (rest : List Input) (txs : List TxAnswer) (s : State) (h : s.phase ≠ .tx)
    (hi : s.inputs = txs.map TxAnswer.move ++ rest) : run txs.length s = .next (setInputs rest s) := by
  induction txs generalizing s with
  | nil => simp at hi; rw [← hi]; rfl
  | cons a as ih =>
    have : takeInput a.move (setInputs (as.map TxAnswer.move ++ rest) s) =
        .next (setInputs (as.map TxAnswer.move ++ rest) s) := by
      cases hp : s.phase <;> cases a <;> simp_all [TxAnswer.move, takeInput, clockEdge, edgeIdle, edgeRx]
    rw [List.length_cons, run_input _ s _ _ _ hi this]
    exact ih (setInputs (as.map TxAnswer.move ++ rest) s) h rfl

/-- The write-all (R187, R193): the machine in phase TX does what `writeAll` does with the bytes still to go. -/
theorem run_writeAll (rest : List Input) (txs : List TxAnswer) (s : State) (hp : s.phase = .tx)
    (hi : s.txIdx.toNat < 8) (hin : s.inputs = txs.map TxAnswer.move ++ rest) :
    ∃ t, run txs.length s = .next t ∧ t.inputs = rest ∧ t.rxChan = s.rxChan ∧ t.txBuf = s.txBuf ∧
      t.txSent = s.txSent ++ (writeAll (s.txBuf.toList.drop s.txIdx.toNat) txs).1 ∧
      (match (writeAll (s.txBuf.toList.drop s.txIdx.toNat) txs).2 with
       | .waiting => t.phase = .tx ∧ t.resValid = s.resValid
       | .failed c => t.phase = .idle ∧ t.resValid = true ∧ opResult t = some (.opErr (.ioError c))
       | .complete _ => t.phase = .rx ∧ t.rxCnt = s.rxCnt ∧ t.resValid = s.resValid) := by
  induction txs generalizing s with
  | nil =>
    refine ⟨s, rfl, by simpa using hin, rfl, rfl, ?_⟩
    have : s.txBuf.toList.drop s.txIdx.toNat ≠ [] := by simp; omega
    match hd : s.txBuf.toList.drop s.txIdx.toNat, this with
    | b :: bs, _ => simp [writeAll, hp]
  | cons a as ih =>
    obtain ⟨ms, hms⟩ : ∃ ms, ms = as.map TxAnswer.move ++ rest := ⟨_, rfl⟩
    have hin : s.inputs = a.move :: ms := by rw [hin, hms]; rfl
    have hd : s.txBuf.toList.drop s.txIdx.toNat =
        s.txBuf[s.txIdx.toNat] :: s.txBuf.toList.drop (s.txIdx.toNat + 1) := by
      rw [List.drop_eq_getElem_cons (by simpa using hi)]; simp
    rw [List.length_cons, hd]
    cases a with
    | fail =>
      have h1 : takeInput TxAnswer.fail.move (setInputs ms s) = .next (raiseIoError .writeFailed (setInputs ms s)) := by
        simp [TxAnswer.move, takeInput, clockEdge, edgeTx, hp]
      refine ⟨setInputs rest (raiseIoError .writeFailed s), ?_, rfl, rfl, rfl, ?_⟩
      · rw [run_input _ s _ _ _ hin h1, run_txAnswers_outside rest as _ (by simp [raiseIoError]) hms]; rfl
      · simp [writeAll, raiseIoError, opResult, ioCauseOfPort]
    | accept =>
      have h1 : takeInput TxAnswer.accept.move (setInputs ms s) = .next (sendByte (setInputs ms s)) := by
        simp [TxAnswer.move, takeInput, clockEdge, edgeTx, hp]
      rw [run_input _ s _ _ _ hin h1, sendByte_enabled _ (by exact hi)]
      have hadd : (s.txIdx + 1#4).toNat = s.txIdx.toNat + 1 := by
        rw [BitVec.toNat_add]; simp at hi ⊢; omega
      by_cases h8 : s.txIdx + 1#4 = 8#4
      · have h8' : s.txIdx.toNat + 1 = 8 := by rw [← hadd, h8]; rfl
        refine ⟨_, run_txAnswers_outside rest as _ (by simp [h8]) hms, rfl, rfl, rfl, ?_⟩
        have : s.txBuf.toList.drop 8 = [] := by simp
        simp [h8', writeAll, this, h8]
      · have h8' : s.txIdx.toNat + 1 ≠ 8 := by
          rw [← hadd]
          exact fun h => h8 (BitVec.eq_of_toNat_eq (by simpa using h))
        obtain ⟨t, ht, h2, h3, h4, h5, h6⟩ :=
          ih { s with inputs := ms, txSent := s.txSent ++ [s.txBuf[s.txIdx.toNat]], txIdx := s.txIdx + 1#4 } hp
            (by simp only [hadd]; omega) hms
        refine ⟨t, ?_, h2, h3, h4, ?_⟩
        · rw [← ht]; simp [h8, setInputs, hp]
        · simp only [hadd] at h5 h6
          refine ⟨?_, h6⟩
          rw [h5]; simp [writeAll]

/-- Outside phase RX one read answer has no effect but that its byte waits in the channel (R63, R249). -/
theorem run_rxAnswer_outside (a : RxAnswer) (ms : List Input) (s : State) (h : s.phase ≠ .rx)
    (hi : s.inputs = a.moves ++ ms) : ∃ ch, run a.moves.length s = .next (setRxChan ch (setInputs ms s)) := by
  cases a with
  | deliver b =>
    refine ⟨s.rxChan ++ [b], ?_⟩
    rw [RxAnswer.moves, List.length_cons, run_input _ s _ _ _ hi rfl]
    refine run_input 0 _ _ _ ms rfl ?_
    cases hp : s.phase <;> simp_all [takeInput, clockEdge, edgeIdle, edgeTx, arriveByte, setRxChan, setInputs]
  | timeout =>
    refine ⟨s.rxChan, run_input 0 s _ _ ms hi ?_⟩
    cases hp : s.phase <;> simp_all [takeInput, clockEdge, edgeIdle, edgeTx, setRxChan, setInputs]
  | fail =>
    refine ⟨s.rxChan, run_input 0 s _ _ ms hi ?_⟩
    cases hp : s.phase <;> simp_all [takeInput, clockEdge, edgeIdle, edgeTx, setRxChan, setInputs]

/-- The same of any number of read answers. -/
theorem run_rxAnswers_outside (rest : List Input) (rxs : List RxAnswer) (s : State) (h : s.phase ≠ .rx)
    (hi : s.inputs = rxs.flatMap RxAnswer.moves ++ rest) :
    ∃ ch, run (rxs.flatMap RxAnswer.moves).length s = .next (setRxChan ch (setInputs rest s)) := by
  induction rxs generalizing s with
  | nil =>
    refine ⟨s.rxChan, ?_⟩
    simp at hi
    rw [← hi]; rfl
  | cons a as ih =>
    rw [List.flatMap_cons, List.append_assoc] at hi
    obtain ⟨ch, hch⟩ := run_rxAnswer_outside a _ s h hi
    obtain ⟨ch', hch'⟩ := ih (setRxChan ch (setInputs (as.flatMap RxAnswer.moves ++ rest) s)) h rfl
    refine ⟨ch', ?_⟩
    rw [List.flatMap_cons, List.length_append, run_add _ _ _ _ hch, hch']
    rfl

/-- The operation result of a close step is `Interpret` of what `Decode` makes of the buffer (R167, R210). -/
theorem opResult_close_eq (s : State) (h : s.rxCnt = 8#4) :
    opResult (closeExchange s) = some (interpret s.txBuf[1] (.inl (decodeBuf s.rxBuf.toList))) := by
  rw [opResult_close, decodeBuf_frame]
  by_cases hg : s.rxBuf[0] = params.startByte ∧ s.rxBuf[7] = params.endByte
  · rw [if_pos ((bufferGood_iff s).2 ⟨h, hg⟩), if_pos hg]; rfl
  · rw [if_neg fun hb => hg ((bufferGood_iff s).1 hb).2, if_neg hg]; rfl

/-- The close step of an exchange leaves a valid result and touches neither the sender nor the moves to come. -/
theorem closeExchange_frame (s : State) : (closeExchange s).resValid = true ∧ (closeExchange s).inputs = s.inputs ∧
    (closeExchange s).txSent = s.txSent := by
  unfold closeExchange
  split <;> exact ⟨rfl, rfl, rfl⟩

/-- A read with `n` bytes to come does not depend on what stands at the offsets still to be written. -/
theorem readExact_congr (n : Nat) (hn : n ≤ 8) (r r' : Frame) (rxs : List RxAnswer)
    (h : ∀ (i : Nat) (hi : i < 8), i < 8 - n → r[i] = r'[i]) : readExact n r rxs = readExact n r' rxs := by
  induction n generalizing r r' rxs with
  | zero =>
    have : r = r' := by
      ext i hi
      rw [h i hi (by omega)]
    rw [this]
  | succ n ih =>
    match rxs with
    | [] => rfl
    | .timeout :: _ => rfl
    | .fail :: _ => rfl
    | .deliver b :: as =>
      refine ih (by omega) _ _ as fun i hi hlt => ?_
      show (r.setIfInBounds (8 - (n + 1)) b)[i] = (r'.setIfInBounds (8 - (n + 1)) b)[i]
      by_cases he : 8 - (n + 1) = i
      · simp [he]
      · rw [setIfInBounds_other _ _ _ _ hi he, setIfInBounds_other _ _ _ _ hi he, h i hi (by omega)]

/-- A read of all eight bytes may start from any frame. -/
theorem readExact_start (r r' : Frame) (rxs : List RxAnswer) : readExact 8 r rxs = readExact 8 r' rxs :=
  readExact_congr 8 (by omega) r r' rxs fun i _ hlt => absurd hlt (by omega)

/-- The read-exact (R189 to R192): the machine in phase RX with an empty channel does what `readExact` does, and a complete
read ends with the operation result of its eight bytes. -/
theorem run_readExact (rest : List Input) (rxs : List RxAnswer) (n : Nat) (buf : Frame) (s : State) (hn : n < 8)
    (hp : s.phase = .rx) (hi : (withRx buf (BitVec.ofNat 4 n) [] s).inputs = rxs.flatMap RxAnswer.moves ++ rest) :
    ∃ t, run (rxs.flatMap RxAnswer.moves).length (withRx buf (BitVec.ofNat 4 n) [] s) = .next t ∧
      t.inputs = rest ∧ t.txSent = s.txSent ∧
      (match readExact (8 - n) buf rxs with
       | .waiting => t.phase = .rx ∧ t.resValid = s.resValid
       | .failed c => t.phase = .idle ∧ t.resValid = true ∧ opResult t = some (.opErr (.ioError c))
       | .complete f => t.phase = .idle ∧ t.resValid = true ∧
         opResult t = some (interpret s.txBuf[1] (.inl (decodeBuf f.toList)))) := by
  obtain ⟨m, hm⟩ : ∃ m, 8 - n = m + 1 := ⟨7 - n, by omega⟩
  induction rxs generalizing n m buf s with
  | nil =>
    rw [hm]
    exact ⟨_, rfl, hi, rfl, hp, rfl⟩
  | cons a as ih =>
    obtain ⟨ms, hms⟩ : ∃ ms, ms = as.flatMap RxAnswer.moves ++ rest := ⟨_, rfl⟩
    rw [List.flatMap_cons, List.append_assoc, ← hms] at hi
    rw [hm, List.flatMap_cons, List.length_append]
    cases a with
    | timeout =>
      have h1 : run 1 (withRx buf (BitVec.ofNat 4 n) [] s) =
          .next (raiseIoError .readTimeout (setInputs ms (withRx buf (BitVec.ofNat 4 n) [] s))) := by
        refine run_input 0 _ _ _ ms hi ?_
        simp [takeInput, clockEdge, setInputs, withRx, hp, edgeRx]
      obtain ⟨ch, hch⟩ := run_rxAnswers_outside rest as
        (raiseIoError .readTimeout (setInputs ms (withRx buf (BitVec.ofNat 4 n) [] s)))
        (by simp [raiseIoError, enterError]) hms
      refine ⟨_, (run_add 1 _ _ _ h1).trans hch, rfl, rfl, ?_⟩
      simp [readExact, raiseIoError, enterError, setRxChan, setInputs, opResult, ioCauseOfPort]
    | fail =>
      have h1 : run 1 (withRx buf (BitVec.ofNat 4 n) [] s) =
          .next (raiseIoError .readFailed (setInputs ms (withRx buf (BitVec.ofNat 4 n) [] s))) := by
        refine run_input 0 _ _ _ ms hi ?_
        simp [takeInput, clockEdge, setInputs, withRx, hp, edgeRx]
      obtain ⟨ch, hch⟩ := run_rxAnswers_outside rest as
        (raiseIoError .readFailed (setInputs ms (withRx buf (BitVec.ofNat 4 n) [] s)))
        (by simp [raiseIoError, enterError]) hms
      refine ⟨_, (run_add 1 _ _ _ h1).trans hch, rfl, rfl, ?_⟩
      simp [readExact, raiseIoError, enterError, setRxChan, setInputs, opResult, ioCauseOfPort]
    | deliver b =>
      have h2 : run 2 (withRx buf (BitVec.ofNat 4 n) [] s) =
          .next (offerByte (withRx buf (BitVec.ofNat 4 n) [b] (setInputs ms s))) := by
        rw [run_input 1 _ _ _ _ hi rfl]
        refine run_input 0 _ _ _ ms rfl ?_
        simp [takeInput, clockEdge, setInputs, arriveByte, setRxChan, withRx, hp, edgeRx]
      rw [show (RxAnswer.deliver b).moves.length = 2 from rfl, run_add 2 _ _ _ h2]
      by_cases h7 : n = 7
      · subst h7
        obtain rfl : m = 0 := by omega
        rw [offerByte_closes buf b [] (setInputs ms s) hp]
        obtain ⟨c, hc⟩ : ∃ c, c = withRx (buf.setIfInBounds 7 b) 8#4 [] (setInputs ms s) := ⟨_, rfl⟩
        obtain ⟨hv, hin, hsent⟩ := closeExchange_frame c
        obtain ⟨ch, hch⟩ := run_rxAnswers_outside rest as (closeExchange c) (by rw [closeExchange_idle]; decide)
          (by rw [hin, hc]; exact hms)
        rw [← hc]
        refine ⟨_, hch, rfl, by show (closeExchange c).txSent = _; rw [hsent, hc]; rfl, closeExchange_idle _, hv, ?_⟩
        show opResult (closeExchange c) = _
        rw [opResult_close_eq c (by rw [hc]; rfl), hc]
        rfl
      · rw [offerByte_collects buf n b [] (setInputs ms s) hp (by omega)]
        obtain ⟨t, h1, h2, h3, h4⟩ :=
          ih (n + 1) (buf.setIfInBounds n b) (setInputs ms s) (by omega) hp hms (m - 1) (by omega)
        refine ⟨t, h1, h2, h3, ?_⟩
        rw [show 8 - (n + 1) = m by omega] at h4
        rw [readExact, show params.frameLen - (m + 1) = n from show 8 - (m + 1) = n by omega]
        exact h4

end Sys2Proof.Machine
end

