-- ==== Sys2Proof/Laws/PerInstr.lean ====
section
/-!
SUPPORT. A statement about every instruction as syntax, one lemma per constructor: its frame begins with START and ends with
END (R91, R92).
-/

namespace Sys2Proof.Laws.Sentinels

open Sys2Proof.Machine

/-- The frame of the instruction has both sentinels. -/
def Statement (i : Instr) : Prop :=
  (encode i)[0] = params.startByte ∧ (encode i)[7] = params.endByte

theorem enroll1 (uid : Half) (perm : Byte) : Statement (.enroll1 uid perm) := ⟨rfl, rfl⟩
theorem enroll2 (uid : Half) (perm : Byte) : Statement (.enroll2 uid perm) := ⟨rfl, rfl⟩
theorem enroll3 (uid : Half) (perm : Byte) : Statement (.enroll3 uid perm) := ⟨rfl, rfl⟩
theorem deluser (uid : Half) : Statement (.deluser uid) := ⟨rfl, rfl⟩
theorem delall : Statement (.delall) := ⟨rfl, rfl⟩
theorem count : Statement (.count) := ⟨rfl, rfl⟩
theorem qperm (uid : Half) : Statement (.qperm uid) := ⟨rfl, rfl⟩
theorem verify11 (uid : Half) : Statement (.verify11 uid) := ⟨rfl, rfl⟩
theorem verify1n : Statement (.verify1n) := ⟨rfl, rfl⟩
theorem raw (c p1 p2 p3 : Byte) : Statement (.raw c p1 p2 p3) := ⟨rfl, rfl⟩
theorem ackSuccess (echo q1 q2 chk rsv : Byte) : Statement (.ackSuccess echo q1 q2 chk rsv) := ⟨rfl, rfl⟩
theorem ackFail (echo q1 q2 chk rsv : Byte) : Statement (.ackFail echo q1 q2 chk rsv) := ⟨rfl, rfl⟩
theorem ackDatabaseFull (echo q1 q2 chk rsv : Byte) : Statement (.ackDatabaseFull echo q1 q2 chk rsv) := ⟨rfl, rfl⟩
theorem ackNoUser (echo q1 q2 chk rsv : Byte) : Statement (.ackNoUser echo q1 q2 chk rsv) := ⟨rfl, rfl⟩
theorem ackUserIdOccupied (echo q1 q2 chk rsv : Byte) : Statement (.ackUserIdOccupied echo q1 q2 chk rsv) := ⟨rfl, rfl⟩
theorem ackFingerprintOccupied (echo q1 q2 chk rsv : Byte) : Statement (.ackFingerprintOccupied echo q1 q2 chk rsv) := ⟨rfl, rfl⟩
theorem ackTimeout (echo q1 q2 chk rsv : Byte) : Statement (.ackTimeout echo q1 q2 chk rsv) := ⟨rfl, rfl⟩
theorem ackUnknown (echo q1 q2 q3 chk rsv : Byte) : Statement (.ackUnknown echo q1 q2 q3 chk rsv) := ⟨rfl, rfl⟩

end Sys2Proof.Laws.Sentinels
end

