-- ==== Sys2Proof/Laws/Progress.lean ====
section
/-!
SUPPORT. Laws of progress and of the end of a run: under the premises of R66 every exchange ends, and the end of a run is final
(R275).
-/

namespace Sys2Proof.Machine

theorem step_single (m : Input) (s : State) : step (setInputs [m] s) = takeInput m (setInputs [] s) := rfl

/-! ### Phase RX -/

/-- The exchange has ended, or it reads on with at least `k` bytes taken. -/
def ReadsOn (k : Nat) (s : State) : Prop :=
  Ended s ∨ (s.phase = .rx ∧ k ≤ s.rxCnt.toNat ∧ s.rxCnt.toNat < 8)

theorem ReadsOn.mono {j k : Nat} {s : State} (hjk : j ≤ k) : ReadsOn k s → ReadsOn j s
  | .inl h => .inl h
  | .inr ⟨hp, hk, h8⟩ => .inr ⟨hp, by omega, h8⟩

theorem closeExchange_ended (s : State) : Ended (closeExchange s) := by
  unfold closeExchange
  split <;> exact ⟨rfl, rfl⟩

/-- A waiting byte that is offered is taken, and the eighth ends the exchange (R189, R190). -/
theorem offerByte_readsOn (s : State) (hp : s.phase = .rx) (h8 : s.rxCnt.toNat < 8) (hc : s.rxChan ≠ []) :
    ReadsOn (s.rxCnt.toNat + 1) (offerByte s) := by
  obtain ⟨b, rest, hb⟩ := List.exists_cons_of_ne_nil hc
  rw [offerByte_rx s b rest hp hb]
  by_cases h7 : s.rxCnt = 7#4
  · rw [pushExchange_last b (setRxChan rest s) h7]
    exact .inl (closeExchange_ended _)
  · rw [pushExchange_more b (setRxChan rest s) h7]
    have hne : s.rxCnt.toNat ≠ 7 := fun h => h7 (BitVec.eq_of_toNat_eq h)
    have hup : (countUp s.rxCnt).toNat = s.rxCnt.toNat + 1 := by rw [countUp_toNat]; omega
    exact .inr ⟨hp, by simp [storeByte, setRxChan, hup], by simp only [storeByte, setRxChan, hup]; omega⟩

theorem offerByte_keeps_readsOn (k : Nat) (s : State) (h : ReadsOn k s) : ReadsOn k (offerByte s) := by
  rcases h with h | ⟨hp, hk, h8⟩
  · rw [offerByte_waits s (.inl (by rw [h.1]; decide))]
    exact .inl h
  · by_cases hc : s.rxChan = []
    · rw [offerByte_waits s (.inr hc)]
      exact .inr ⟨hp, hk, h8⟩
    · exact (offerByte_readsOn s hp h8 hc).mono (by omega)

theorem offerBytes_keeps_readsOn (k n : Nat) (s : State) (h : ReadsOn k s) : ReadsOn k (offerBytes n s) := by
  induction n generalizing s with
  | zero => exact h
  | succ n ih => exact ih _ (offerByte_keeps_readsOn k s h)

theorem receiveFrame_readsOn (f : Frame) (s : State) (hp : s.phase = .rx) (h8 : s.rxCnt.toNat < 8) :
    ReadsOn (s.rxCnt.toNat + 1) (receiveFrame f s) :=
  offerBytes_keeps_readsOn _ 7 _
    (offerByte_readsOn (setRxChan (s.rxChan ++ f.toList) s) hp h8 (by simp [setRxChan, frame_toList]))

/-- A step in phase RX without a reset: the exchange ends or reads on, and an answer of the environment brings it on. -/
theorem step_rx (m : Input) (s t : State) (hp : s.phase = .rx) (h8 : s.rxCnt.toNat < 8) (hr : m.resets = false)
    (h : step (setInputs [m] s) = .next t) :
    ReadsOn s.rxCnt.toNat t ∧ (answersRx m s = true → ReadsOn (s.rxCnt.toNat + 1) t) := by
  have hold : ReadsOn s.rxCnt.toNat (setInputs [] s) := .inr ⟨hp, le_refl _, h8⟩
  rw [step_single] at h
  cases m with
  | arrive b => cases h; exact ⟨hold, by simp [answersRx]⟩
  | sample port =>
    simp only [takeInput, sampleOutput] at h
    split at h
    · cases h; exact ⟨hold, by simp [answersRx]⟩
    · cases h
  | response w =>
    rw [takeInput, receiveWord_next] at h
    cases h
    have := receiveFrame_readsOn (frameOfWord w) (setInputs [] s) hp h8
    exact ⟨this.mono (Nat.le_succ _), fun _ => this⟩
  | edge p =>
    have hr : p.rst = false := hr
    have hp' : (setInputs [] s).phase = .rx := hp
    simp only [takeInput, clockEdge, hr, hp', Bool.false_eq_true, if_false, Host.Outcome.next.injEq] at h
    subst h
    unfold edgeRx
    split
    · next hc =>
      have := offerByte_readsOn (setInputs [] s) hp h8 hc.2
      exact ⟨this.mono (Nat.le_succ _), fun _ => this⟩
    split
    · exact ⟨.inl ⟨rfl, rfl⟩, fun _ => .inl ⟨rfl, rfl⟩⟩
    split
    · exact ⟨.inl ⟨rfl, rfl⟩, fun _ => .inl ⟨rfl, rfl⟩⟩
    · next hv hf ht =>
      refine ⟨hold, fun ha => absurd ha ?_⟩
      simp only [setInputs, not_and_or, not_not] at hv
      simp only [answersRx, hf, ht, Bool.or_false]
      rcases hv with hv | hv <;> simp [hv]

/-- In phase RX the exchange ends, under the progress premise (b) of R66. -/
theorem rx_ends (moves : Nat → Input) (states : Nat → State) (hx : Execution moves states)
    (hr : ∀ n, (moves n).resets = false) (hb : RxProgress moves states) (d n : Nat) (hp : (states n).phase = .rx)
    (h8 : (states n).rxCnt.toNat < 8) (hd : 8 - (states n).rxCnt.toNat ≤ d) : ∃ m ≥ n, Ended (states m) := by
  induction d generalizing n with
  | zero => omega
  | succ d ih =>
    by_contra hno
    have hon : ∀ j, ReadsOn (states n).rxCnt.toNat (states (n + j)) := by
      intro j
      induction j with
      | zero => exact .inr ⟨hp, le_refl _, h8⟩
      | succ j hj =>
        rcases hj with hj | ⟨hpj, hkj, h8j⟩
        · exact absurd ⟨n + j, by omega, hj⟩ hno
        · exact (step_rx _ _ _ hpj h8j (hr _) (hx (n + j))).1.mono hkj
    have hrx : ∀ m ≥ n, (states m).phase = .rx ∧ (states n).rxCnt.toNat ≤ (states m).rxCnt.toNat ∧
        (states m).rxCnt.toNat < 8 := by
      intro m hm
      have := hon (m - n)
      rw [show n + (m - n) = m by omega] at this
      exact this.resolve_left fun h => hno ⟨m, hm, h⟩
    obtain ⟨m, hm, ha⟩ := hb n fun m hm => (hrx m hm).1
    obtain ⟨hpm, hkm, h8m⟩ := hrx m hm
    rcases (step_rx _ _ _ hpm h8m (hr m) (hx m)).2 ha with he | ⟨hp1, hk1, h81⟩
    · exact hno ⟨m + 1, by omega, he⟩
    · obtain ⟨m', hm', he⟩ := ih (m + 1) hp1 h81 (by omega)
      exact hno ⟨m', by omega, he⟩

/-! ### Phase TX -/

/-- The exchange has ended, or it reads, or it still sends with at least `k` bytes sent. -/
def SendsOn (k : Nat) (s : State) : Prop :=
  Ended s ∨ (s.phase = .rx ∧ s.rxCnt.toNat < 8) ∨
    (s.phase = .tx ∧ k ≤ s.txIdx.toNat ∧ s.txIdx.toNat < 8 ∧ s.rxCnt.toNat < 8)

theorem SendsOn.mono {j k : Nat} {s : State} (hjk : j ≤ k) : SendsOn k s → SendsOn j s
  | .inl h => .inl h
  | .inr (.inl h) => .inr (.inl h)
  | .inr (.inr ⟨hp, hk, h8⟩) => .inr (.inr ⟨hp, by omega, h8⟩)

theorem sendByte_sendsOn (s : State) (hp : s.phase = .tx) (h8 : s.txIdx.toNat < 8) (hn : s.rxCnt.toNat < 8) :
    SendsOn (s.txIdx.toNat + 1) (sendByte s) := by
  rw [sendByte_enabled s h8]
  have hadd : (s.txIdx + 1#4).toNat = s.txIdx.toNat + 1 := by
    rw [BitVec.toNat_add]; simp at h8 ⊢; omega
  by_cases h : s.txIdx + 1#4 = 8#4
  · exact .inr (.inl ⟨by simp [h], hn⟩)
  · have hne : s.txIdx.toNat + 1 ≠ 8 := by
      rw [← hadd]
      exact fun e => h (BitVec.eq_of_toNat_eq (by simpa using e))
    exact .inr (.inr ⟨by simp [h, hp], by simp only [hadd]; omega, by simp only [hadd]; omega, hn⟩)

/-- A step in phase TX without a reset: the exchange ends, reads or sends on, and an answer brings it on. -/
theorem step_tx (m : Input) (s t : State) (hp : s.phase = .tx) (h8 : s.txIdx.toNat < 8) (hn : s.rxCnt.toNat < 8)
    (hr : m.resets = false) (h : step (setInputs [m] s) = .next t) :
    SendsOn s.txIdx.toNat t ∧ (m.answersTx = true → SendsOn (s.txIdx.toNat + 1) t) := by
  have hold : SendsOn s.txIdx.toNat (setInputs [] s) := .inr (.inr ⟨hp, le_refl _, h8, hn⟩)
  rw [step_single] at h
  cases m with
  | arrive b => cases h; exact ⟨hold, by simp [Input.answersTx]⟩
  | sample port =>
    simp only [takeInput, sampleOutput] at h
    split at h
    · cases h; exact ⟨hold, by simp [Input.answersTx]⟩
    · cases h
  | response w =>
    rw [takeInput, receiveWord_next] at h
    cases h
    rw [receiveFrame_waits _ (setInputs [] s) (by show s.phase ≠ _; rw [hp]; decide)]
    exact ⟨hold, by simp [Input.answersTx]⟩
  | edge p =>
    have hr : p.rst = false := hr
    have hp' : (setInputs [] s).phase = .tx := hp
    simp only [takeInput, clockEdge, hr, hp', Bool.false_eq_true, if_false, Host.Outcome.next.injEq] at h
    subst h
    unfold edgeTx
    split
    · exact ⟨.inl ⟨rfl, rfl⟩, fun _ => .inl ⟨rfl, rfl⟩⟩
    split
    · have := sendByte_sendsOn (setInputs [] s) hp h8 hn
      exact ⟨this.mono (Nat.le_succ _), fun _ => this⟩
    · next hf ht => exact ⟨hold, by simp [Input.answersTx, hf, ht]⟩

/-- "Under (a) and (b) every exchange ends" (R66): from any busy state that meets the control invariant, with no reset, the
exchange reaches its end with a result. -/
theorem exchange_ends (moves : Nat → Input) (states : Nat → State) (hx : Execution moves states)
    (hr : ∀ n, (moves n).resets = false) (ha : TxProgress moves states) (hb : RxProgress moves states) (n : Nat)
    (hinv : ControlInv (states n)) (hbusy : (states n).phase ≠ .idle) : ∃ m ≥ n, Ended (states m) := by
  have tx : ∀ d n, (states n).phase = .tx → (states n).txIdx.toNat < 8 → (states n).rxCnt.toNat < 8 →
      8 - (states n).txIdx.toNat ≤ d → ∃ m ≥ n, Ended (states m) := by
    intro d
    induction d with
    | zero => intro n _ h8 _ hd; omega
    | succ d ih =>
      intro n hp h8 hn hd
      by_contra hno
      have hnorx : ∀ m ≥ n, ¬((states m).phase = .rx ∧ (states m).rxCnt.toNat < 8) := by
        rintro m hm ⟨hpm, h8m⟩
        obtain ⟨m', hm', he⟩ := rx_ends moves states hx hr hb 8 m hpm h8m (by omega)
        exact hno ⟨m', by omega, he⟩
      have hon : ∀ j, SendsOn (states n).txIdx.toNat (states (n + j)) := by
        intro j
        induction j with
        | zero => exact .inr (.inr ⟨hp, le_refl _, h8, hn⟩)
        | succ j hj =>
          rcases hj with hj | hj | ⟨hpj, hkj, h8j, hnj⟩
          · exact absurd ⟨n + j, by omega, hj⟩ hno
          · exact absurd hj (hnorx _ (by omega))
          · exact (step_tx _ _ _ hpj h8j hnj (hr _) (hx (n + j))).1.mono hkj
      have htx : ∀ m ≥ n, (states m).phase = .tx ∧ (states n).txIdx.toNat ≤ (states m).txIdx.toNat ∧
          (states m).txIdx.toNat < 8 ∧ (states m).rxCnt.toNat < 8 := by
        intro m hm
        have := hon (m - n)
        rw [show n + (m - n) = m by omega] at this
        exact (this.resolve_left fun h => hno ⟨m, hm, h⟩).resolve_left (hnorx m hm)
      obtain ⟨m, hm, hans⟩ := ha n fun m hm => (htx m hm).1
      obtain ⟨hpm, hkm, h8m, hnm⟩ := htx m hm
      rcases (step_tx _ _ _ hpm h8m hnm (hr m) (hx m)).2 hans with he | hrx | ⟨hp1, hk1, h81, hn1⟩
      · exact hno ⟨m + 1, by omega, he⟩
      · exact hnorx (m + 1) (by omega) hrx
      · obtain ⟨m', hm', he⟩ := ih (m + 1) hp1 h81 hn1 (by omega)
        exact hno ⟨m', by omega, he⟩
  cases hp : (states n).phase with
  | idle => exact absurd hp hbusy
  | tx =>
    obtain ⟨h8, hn⟩ := hinv.tx_sending hp
    exact tx 8 n hp h8 (by rw [hn]; decide) (by omega)
  | rx => exact rx_ends moves states hx hr hb 8 n hp (hinv.rx_reading hp).2 (by omega)

/-! ### The end of a run -/

/-- The end of a run is final: a further step leaves the whole state as it is but for bytes that arrive, and it is the end of
the run still (R275). -/
theorem runOver_final (s t : State) (h : RunOver s) (hs : step s = .next t) :
    t = { s with rxChan := t.rxChan, inputs := t.inputs } ∧ RunOver t := by
  obtain ⟨⟨hp, hv⟩, hin⟩ := h
  unfold step takeNext at hs
  split at hs
  · cases hs
    exact ⟨rfl, ⟨hp, hv⟩, hin⟩
  · next m rest hi =>
    have hrest : ∀ m' ∈ rest, m'.hostOffers = false := fun m' hm' => hin m' (by rw [hi]; exact List.mem_cons_of_mem _ hm')
    have hm : m.hostOffers = false := hin m (by rw [hi]; exact List.mem_cons_self)
    cases m with
    | arrive b => cases hs; exact ⟨rfl, ⟨hp, hv⟩, hrest⟩
    | sample port =>
      simp only [takeInput, sampleOutput] at hs
      split at hs
      · cases hs; exact ⟨rfl, ⟨hp, hv⟩, hrest⟩
      · cases hs
    | response w =>
      rw [takeInput, receiveWord_next] at hs
      cases hs
      rw [receiveFrame_waits _ (setInputs rest s) (by show s.phase ≠ _; rw [hp]; decide)]
      exact ⟨rfl, ⟨hp, hv⟩, hrest⟩
    | edge p =>
      simp only [Input.hostOffers, Bool.or_eq_false_iff] at hm
      obtain ⟨⟨⟨hrst, hreq⟩, hpush⟩, hclose⟩ := hm
      have hp' : (setInputs rest s).phase = .idle := hp
      simp only [takeInput, clockEdge, edgeIdle, hrst, hreq, hpush, hclose, hp', Bool.false_eq_true, if_false,
        Host.Outcome.next.injEq] at hs
      subst hs
      exact ⟨rfl, ⟨hp, hv⟩, hrest⟩

end Sys2Proof.Machine
end

