-- ==== Sys2Proof/Tests/Slice0.lean ====
section
/-!
SUPPORT. Tests: ill-formed terms that WellFormed refuses, one word per constructor written out from the spec's encoding, single
steps with the results of the spec's test vectors (95_test_vectors.md), and a witness for the hypotheses of every statement.
-/

namespace Sys2Proof.Tests

open Sys2Proof Sys2Proof.Machine

/-! ### WellFormed refuses -/

/-- A raw request that is a form UP row (T-F24's command 0x01 is ENROLL1). -/
theorem test_illformed_raw_formUP : (Instr.raw 0x01#8 0xF4#8 0x00#8 0x00#8).wellFormed = false := by decide

/-- A raw request that is a form U row: command 0x0A, third parameter 0. -/
theorem test_illformed_raw_formU : (Instr.raw 0x0A#8 0x0A#8 0xBC#8 0x00#8).wellFormed = false := by decide

/-- A raw request that is a form Z row: command 0x0C, all parameters 0. -/
theorem test_illformed_raw_formZ : (Instr.raw 0x0C#8 0x00#8 0x00#8 0x00#8).wellFormed = false := by decide

/-- RAW 0x0C, 1, 2, 3 is a raw row (T-O11). -/
theorem test_wellformed_raw : (Instr.raw 0x0C#8 0x01#8 0x02#8 0x03#8).wellFormed = true := by decide

/-- ACK_UNKNOWN with one of the seven named codes (R101). -/
theorem test_illformed_ackUnknown :
    ∀ q3 ∈ [0x00#8, 0x01#8, 0x04#8, 0x05#8, 0x06#8, 0x07#8, 0x08#8],
      (Instr.ackUnknown 0x00#8 0x00#8 0x00#8 q3 0x00#8 0x00#8).wellFormed = false := by decide

theorem test_wellformed_ackUnknown : (Instr.ackUnknown 0x00#8 0x00#8 0x00#8 0x02#8 0x00#8 0x00#8).wellFormed = true := by
  decide

/-! ### Decoding: words of 30_encoding.md and 95_test_vectors.md -/

/-- T-F17: F5, 01, user id 0001, permission 03, checksum 03, 00, F5. -/
theorem test_decode_enroll1 : decodeTableWord 64
    0b11110101_00000001_00000000_00000001_00000011_00000011_00000000_11110101 =
      some (.enroll1 0x0001#16 0x03#8) := by decide

/-- T-F18. -/
theorem test_decode_enroll2 : decodeTableWord 64
    0b11110101_00000010_00000000_00000001_00000011_00000000_00000000_11110101 =
      some (.enroll2 0x0001#16 0x03#8) := by decide

/-- T-F19. -/
theorem test_decode_enroll3 : decodeTableWord 64
    0b11110101_00000011_00000000_00000001_00000011_00000001_00000000_11110101 =
      some (.enroll3 0x0001#16 0x03#8) := by decide

/-- T-F20. -/
theorem test_decode_deluser : decodeTableWord 64
    0b11110101_00000100_00001111_11111111_00000000_11110100_00000000_11110101 = some (.deluser 0x0FFF#16) := by decide

/-- T-F5. -/
theorem test_decode_delall : decodeTableWord 64
    0b11110101_00000101_00000000_00000000_00000000_00000101_00000000_11110101 = some .delall := by decide

/-- T-F6. -/
theorem test_decode_count : decodeTableWord 64
    0b11110101_00001001_00000000_00000000_00000000_00001001_00000000_11110101 = some .count := by decide

/-- T-F7. -/
theorem test_decode_qperm : decodeTableWord 64
    0b11110101_00001010_00001010_10111100_00000000_10111100_00000000_11110101 = some (.qperm 0x0ABC#16) := by decide

/-- T-F23. -/
theorem test_decode_verify11 : decodeTableWord 64
    0b11110101_00001011_00000000_00101010_00000000_00100001_00000000_11110101 = some (.verify11 0x002A#16) := by decide

/-- T-F9. -/
theorem test_decode_verify1n : decodeTableWord 64
    0b11110101_00001100_00000000_00000000_00000000_00001100_00000000_11110101 = some .verify1n := by decide

/-- T-F15. -/
theorem test_decode_raw : decodeTableWord 64
    0b11110101_00010010_00110100_01010110_01111000_00001000_00000000_11110101 =
      some (.raw 0x12#8 0x34#8 0x56#8 0x78#8) := by decide

/-- T-D14: F5, echo 01, 00 00, byte 4 = 00, 01, reserved FF, F5. -/
theorem test_decode_ackSuccess : decodeTableWord 64
    0b11110101_00000001_00000000_00000000_00000000_00000001_11111111_11110101 =
      some (.ackSuccess 0x01#8 0x00#8 0x00#8 0x01#8 0xFF#8) := by decide

/-- The response of T-O3: F5 09 00 0A 01 02 00 F5. -/
theorem test_decode_ackFail : decode .response [0xF5#8, 0x09#8, 0x00#8, 0x0A#8, 0x01#8, 0x02#8, 0x00#8, 0xF5#8] =
    .ok (.ackFail 0x09#8 0x00#8 0x0A#8 0x02#8 0x00#8) := by decide

/-- The response of T-O9: F5 01 00 00 04 05 00 F5. -/
theorem test_decode_ackDatabaseFull :
    decode .response [0xF5#8, 0x01#8, 0x00#8, 0x00#8, 0x04#8, 0x05#8, 0x00#8, 0xF5#8] =
      .ok (.ackDatabaseFull 0x01#8 0x00#8 0x00#8 0x05#8 0x00#8) := by decide

/-- The response of T-O7: F5 0A 00 00 05 0F 00 F5. -/
theorem test_decode_ackNoUser : decode .response [0xF5#8, 0x0A#8, 0x00#8, 0x00#8, 0x05#8, 0x0F#8, 0x00#8, 0xF5#8] =
    .ok (.ackNoUser 0x0A#8 0x00#8 0x00#8 0x0F#8 0x00#8) := by decide

/-- The response of T-O8: F5 01 00 00 06 07 00 F5. -/
theorem test_decode_ackUserIdOccupied :
    decode .response [0xF5#8, 0x01#8, 0x00#8, 0x00#8, 0x06#8, 0x07#8, 0x00#8, 0xF5#8] =
      .ok (.ackUserIdOccupied 0x01#8 0x00#8 0x00#8 0x07#8 0x00#8) := by decide

/-- R101, R175: byte 4 = 07; the other bytes written out as the table's fields e, h, l, k, r. -/
theorem test_decode_ackFingerprintOccupied : decodeTableWord 64
    0b11110101_00000010_00010010_00110100_00000111_01010101_10101010_11110101 =
      some (.ackFingerprintOccupied 0x02#8 0x12#8 0x34#8 0x55#8 0xAA#8) := by decide

/-- The response of T-X8: F5 0B 00 00 08 03 00 F5. -/
theorem test_decode_ackTimeout : decode .response [0xF5#8, 0x0B#8, 0x00#8, 0x00#8, 0x08#8, 0x03#8, 0x00#8, 0xF5#8] =
    .ok (.ackTimeout 0x0B#8 0x00#8 0x00#8 0x03#8 0x00#8) := by decide

/-- T-D13: the sentinel value everywhere. -/
theorem test_decode_ackUnknown :
    decode .response [0xF5#8, 0xF5#8, 0xF5#8, 0xF5#8, 0xF5#8, 0xF5#8, 0xF5#8, 0xF5#8] =
      .ok (.ackUnknown 0xF5#8 0xF5#8 0xF5#8 0xF5#8 0xF5#8 0xF5#8) := by decide

/-- T-D3, T-D4, T-D9, T-D11: bad START, bad END, six bytes, nine bytes. -/
theorem test_decode_rejects :
    decode .response [0xF4#8, 0x0C#8, 0x00#8, 0x2A#8, 0x00#8, 0x26#8, 0x00#8, 0xF5#8] = .error .badStart ∧
    decode .response [0xF5#8, 0x0C#8, 0x00#8, 0x2A#8, 0x00#8, 0x26#8, 0x00#8, 0xF4#8] = .error .badEnd ∧
    decode .response [0xF5#8, 0x0C#8, 0x00#8, 0x2A#8, 0x00#8, 0x26#8] = .error .wrongLength ∧
    decode .response [0xF5#8, 0x0C#8, 0x00#8, 0x2A#8, 0x00#8, 0x26#8, 0x00#8, 0xF5#8, 0x00#8] = .error .wrongLength := by
  decide

/-- R93: RAW's checksum is masked; a form Z code with a wrong checksum matches RAW alone. The words of ACK_FAIL and of RAW
0, 0, 0, 1 without direction: only the right checksum (01) is a request (log entry 9). -/
theorem test_decode_raw_masked :
    decode .request [0xF5#8, 0x12#8, 0x34#8, 0x56#8, 0x78#8, 0xFF#8, 0x00#8, 0xF5#8] =
      .ok (.raw 0x12#8 0x34#8 0x56#8 0x78#8) ∧
    decode .request [0xF5#8, 0x09#8, 0x00#8, 0x00#8, 0x00#8, 0x08#8, 0x00#8, 0xF5#8] =
      .ok (.raw 0x09#8 0x00#8 0x00#8 0x00#8) ∧
    decodeTableWord 64 0xF5000000010000F5 = some (.ackFail 0x00#8 0x00#8 0x00#8 0x00#8 0x00#8) ∧
    decodeTableWord 64 0xF5000000010100F5 = some (.raw 0x00#8 0x00#8 0x00#8 0x01#8) := by decide

/-! ### The units: T-C, T-V, T-F -/

/-- T-C5, T-C6, T-C10. -/
theorem test_chk : chk 0x12#8 0x34#8 0x56#8 0x78#8 = 0x08#8 ∧ chk 0x01#8 0x0A#8 0xBC#8 0x01#8 = 0xB6#8 ∧
    chk 0x01#8 0xF4#8 0x00#8 0x00#8 = 0xF5#8 := by decide

/-- T-V3 (offset 6 takes no part) and T-V5. -/
theorem test_chkVerify : chkVerify #v[0xF5#8, 0x0C#8, 0x00#8, 0x2A#8, 0x00#8, 0x26#8, 0xFF#8, 0xF5#8] = true ∧
    chkVerify #v[0xF5#8, 0xF5#8, 0xF5#8, 0xF5#8, 0xF5#8, 0xF5#8, 0x00#8, 0xF5#8] = false := by decide

/-- T-F24: a checksum that equals the sentinel. -/
theorem test_encodeFrame : wordOfFrame (encodeFrame 0x01#8 0xF4#8 0x00#8 0x00#8) = 0xF501F40000F500F5#64 := by decide

/-! ### Small states -/

/-- The state of a next outcome. -/
def nextOf (o : Host.Outcome State Fault Refusal) : Option State :=
  match o with
  | .next t => some t
  | .fault _ => none
  | .refused _ => none

/-- Phase TX, `n` bytes of the frame of `r` already sent. -/
def sending (r : Request) (n : Nat) : State :=
  { State.reset with phase := .tx, txBuf := r.frame, txIdx := BitVec.ofNat 4 n }

/-- Phase RX after the frame of `r`, `n` bytes of `buf` already taken, `waiting` still in the channel. -/
def reading (r : Request) (buf : Frame) (n : Nat) (waiting : List Byte) : State :=
  { State.reset with
    phase := .rx, txBuf := r.frame, txIdx := 8#4, rxBuf := buf, rxCnt := BitVec.ofNat 4 n, rxChan := waiting }

/-- Phase IDLE, `n` bytes of `buf` pushed by the host. -/
def collecting (buf : Frame) (n : Nat) : State :=
  { State.reset with rxBuf := buf, rxCnt := BitVec.ofNat 4 n }

/-- The buffer of zeros. -/
def blank : Frame := State.reset.rxBuf

/-- A response frame whose last byte is still to come. -/
def almost (echo q1 q2 q3 k : Byte) : Frame := #v[0xF5#8, echo, q1, q2, q3, k, 0x00#8, 0x00#8]

/-- `s` with these moves to come. -/
def withMoves (ms : List Input) (s : State) : State := { s with inputs := ms }

/-- The state of T-X1 with the last byte waiting in the channel. -/
def countEnding : State := reading (formZ 0x09#8) (almost 0x09#8 0x00#8 0x0A#8 0x00#8 0x03#8) 7 [0xF5#8]

/-- A byte offered by the transport. -/
def offered : Pins := { rxValid := true }

/-! ### Single steps: T-F, T-X, T-O, P3, P4 -/

/-- T-F25: the request placed as the next move is issued from reset. -/
theorem test_step_count : (nextOf (step (State.reset.withFetchWord 64 0xF5090000000900F5))).map
    (fun t => (wordOfFrame t.txBuf, t.txIdx, t.rxCnt, t.phase, t.resValid, t.resKind)) =
      some (0xF5090000000900F5#64, 0#4, 0#4, .tx, false, .none) := by decide

/-- T-F1: user id 0x0ABC, permission 1. -/
theorem test_exec_enroll1 : (nextOf (exec (.enroll1 0x0ABC#16 0x01#8) State.reset)).map (fun t => wordOfFrame t.txBuf) =
    some 0xF5010ABC01B600F5#64 := by decide

/-- T-F2. -/
theorem test_exec_enroll2 : (nextOf (exec (.enroll2 0x0ABC#16 0x01#8) State.reset)).map (fun t => wordOfFrame t.txBuf) =
    some 0xF5020ABC01B500F5#64 := by decide

/-- T-F3. -/
theorem test_exec_enroll3 : (nextOf (exec (.enroll3 0x0ABC#16 0x01#8) State.reset)).map (fun t => wordOfFrame t.txBuf) =
    some 0xF5030ABC01B400F5#64 := by decide

/-- T-F4. -/
theorem test_exec_deluser : (nextOf (exec (.deluser 0x0ABC#16) State.reset)).map (fun t => wordOfFrame t.txBuf) =
    some 0xF5040ABC00B200F5#64 := by decide

/-- T-F5. -/
theorem test_exec_delall : (nextOf (exec .delall State.reset)).map (fun t => wordOfFrame t.txBuf) =
    some 0xF5050000000500F5#64 := by decide

/-- T-F27: a request offered in phase TX changes nothing. -/
theorem test_exec_count_busy : (nextOf (exec .count (sending (formU 0x04#8 0x0ABC#16) 3))) =
    some (sending (formU 0x04#8 0x0ABC#16) 3) := by decide

/-- T-F7. -/
theorem test_exec_qperm : (nextOf (exec (.qperm 0x0ABC#16) State.reset)).map (fun t => wordOfFrame t.txBuf) =
    some 0xF50A0ABC00BC00F5#64 := by decide

/-- T-F8. -/
theorem test_exec_verify11 : (nextOf (exec (.verify11 0x0ABC#16) State.reset)).map (fun t => wordOfFrame t.txBuf) =
    some 0xF50B0ABC00BD00F5#64 := by decide

/-- T-F9. -/
theorem test_exec_verify1n : (nextOf (exec .verify1n State.reset)).map (fun t => wordOfFrame t.txBuf) =
    some 0xF50C0000000C00F5#64 := by decide

/-- T-F13: the checksum of four equal bytes cancels. -/
theorem test_exec_raw : (nextOf (exec (.raw 0xFF#8 0xFF#8 0xFF#8 0xFF#8) State.reset)).map (fun t => wordOfFrame t.txBuf) =
    some 0xF5FFFFFFFF0000F5#64 := by decide

/-- T-S5: the response of a VERIFY1N match. -/
theorem test_exec_ackSuccess : (nextOf (exec (.ackSuccess 0x0C#8 0x00#8 0x2A#8 0x26#8 0x00#8)
    (reading (formZ 0x0C#8) blank 0 []))).map (fun t => (opResult t, t.resData.ackClass, t.resData.chkOk, t.phase)) =
      some (some (.done (.matched 0x002A#16 0x00#8)), 0#3, true, .idle) := by decide

/-- T-O3: COUNT answered with Fail ignores bytes 2 and 3. -/
theorem test_exec_ackFail : (nextOf (exec (.ackFail 0x09#8 0x00#8 0x0A#8 0x02#8 0x00#8)
    (reading (formZ 0x09#8) blank 0 []))).map opResult = some (some (.done (.status .fail))) := by decide

/-- T-O9: a full database is a result, not an error. -/
theorem test_exec_ackDatabaseFull : (nextOf (exec (.ackDatabaseFull 0x01#8 0x00#8 0x00#8 0x05#8 0x00#8)
    (reading (formUP 0x01#8 0x0ABC#16 0x01#8) blank 0 []))).map opResult = some (some (.done (.status .databaseFull))) := by
  decide

/-- T-S6: VERIFY1N answered with NoUser is "no match". -/
theorem test_exec_ackNoUser : (nextOf (exec (.ackNoUser 0x0C#8 0x00#8 0x00#8 0x09#8 0x00#8)
    (reading (formZ 0x0C#8) blank 0 []))).map (fun t => (opResult t, t.resData.ackClass)) =
      some (some (.done .noMatch), 3#3) := by decide

/-- T-O8. -/
theorem test_exec_ackUserIdOccupied : (nextOf (exec (.ackUserIdOccupied 0x01#8 0x00#8 0x00#8 0x07#8 0x00#8)
    (reading (formUP 0x01#8 0x0ABC#16 0x01#8) blank 0 []))).map opResult =
      some (some (.done (.status .userIdOccupied))) := by decide

/-- The T-O table, row 07, QPERM: byte 4 raw as the permission level. -/
theorem test_exec_ackFingerprintOccupied : (nextOf (exec (.ackFingerprintOccupied 0x0A#8 0x12#8 0x34#8 0x00#8 0x00#8)
    (reading (formU 0x0A#8 0x0ABC#16) blank 0 []))).map opResult = some (some (.done (.permission 0x07#8))) := by decide

/-- T-O5: VERIFY1N answered with Timeout is "no finger". -/
theorem test_exec_ackTimeout : (nextOf (exec (.ackTimeout 0x0C#8 0x00#8 0x00#8 0x04#8 0x00#8)
    (reading (formZ 0x0C#8) blank 0 []))).map opResult = some (some (.done .noFinger)) := by decide

/-- T-O10: an unlisted byte 4 is Unknown with the byte. -/
theorem test_exec_ackUnknown : (nextOf (exec (.ackUnknown 0x01#8 0x00#8 0x00#8 0x02#8 0x03#8 0x00#8)
    (reading (formUP 0x01#8 0x0ABC#16 0x01#8) blank 0 []))).map opResult =
      some (some (.done (.status (.unknown 0x02#8)))) := by decide

/-- T-X9: a response that arrives in phase TX waits. -/
theorem test_exec_ackFail_waits : (nextOf (exec (.ackFail 0x09#8 0x00#8 0x0A#8 0x02#8 0x00#8)
    (sending (formZ 0x09#8) 3))).map (fun t => (t.rxChan, t.phase)) =
      some ([0xF5#8, 0x09#8, 0x00#8, 0x0A#8, 0x01#8, 0x02#8, 0x00#8, 0xF5#8], .tx) := by decide

/-- P3: the stale bytes 00 02 08 00 F5 come first; five bytes of the late frame stay behind. -/
theorem test_exec_stale : (nextOf (exec (.ackSuccess 0x04#8 0x00#8 0x00#8 0x04#8 0x00#8)
    (reading (formU 0x04#8 0x0001#16) blank 0 [0x00#8, 0x02#8, 0x08#8, 0x00#8, 0xF5#8]))).map
      (fun t => (opResult t, t.rxChan)) =
        some (some (.opErr .malformedFrame), [0x00#8, 0x00#8, 0x04#8, 0x00#8, 0xF5#8]) := by decide

/-- T-X5: a write failure after three bytes keeps `tx_idx` and what was sent. -/
theorem test_write_failure : (nextOf (clockEdge { txFail := true, txReady := true }
    (sending ⟨0x12#8, 0x34#8, 0x56#8, 0x78#8⟩ 3))).map (fun t => (opResult t, t.txIdx, t.phase, t.txSent)) =
      some (some (.opErr (.ioError .writeFailed)), 3#4, .idle, []) := by decide

/-- T-D11: nine bytes pushed, the first eight of them good: still malformed. -/
theorem test_standalone_nine_bytes : (nextOf (clockEdge { decClose := true }
    (collecting #v[0xF5#8, 0x0C#8, 0x00#8, 0x2A#8, 0x00#8, 0x26#8, 0x00#8, 0xF5#8] 9))).map
      (fun t => (decodeResult t, t.resOpValid, t.rxCnt)) = some (some .malformed, false, 0#4) := by decide

/-- P4, line 2: a wrong checksum is accepted. -/
theorem test_standalone_wrong_checksum : (nextOf (clockEdge { decClose := true }
    (collecting #v[0xF5#8, 0x0C#8, 0x00#8, 0x2A#8, 0x00#8, 0x00#8, 0x00#8, 0xF5#8] 8))).map
      (fun t => (t.resKind, t.resData.u16, t.resData.chkOk, opResult t)) =
        some (.ok, 0x002A#16, false, none) := by decide

/-- U10: a data output has no value after an error. -/
theorem test_no_value : readPort .resQ3 (raiseIoError .readTimeout countEnding) = none := by decide

/-- T-S9: step 2 fails, step 3 is sent all the same, and the report shows all three. -/
theorem test_enroll_no_abort :
    let e := ((Enrollment.begin 0x0ABC#16 0x01#8).stepEnds (.done (.status .success))).stepEnds (.done (.status .fail))
    e.request = some (.enroll3 0x0ABC#16 0x01#8) ∧
    (e.stepEnds (.done (.status .success))).report =
      some [.done (.status .success), .done (.status .fail), .done (.status .success)] := by decide

/-- After eight bytes `tx_byte` shows a free value: reading it is no stop and changes nothing (R71). -/
theorem test_tx_byte_after_the_frame :
    step (withMoves [.sample .txByte] (reading (formZ 0x09#8) blank 0 [])) = .next (reading (formZ 0x09#8) blank 0 []) := by
  rfl

/-! ### Witnesses: hypotheses that can be met -/

theorem witness_DecodeOfEncodeIsTheInstruction :
    (Instr.enroll3 0xFFFF#16 0xFF#8).wellFormed = true ∧ (Instr.raw 0x0C#8 0x00#8 0x00#8 0x01#8).wellFormed = true ∧
    (Instr.ackUnknown 0x00#8 0x00#8 0x00#8 0x09#8 0x00#8 0x00#8).wellFormed = true := by decide

/-- A right checksum; a wrong one under a form Z code, under RAW, and under a form Z code with a nonzero field; a response. -/
theorem witness_EncodeOfDecodeIsTheBytes :
    decode .request (encodeFrame 0x12#8 0x34#8 0x56#8 0x78#8).toList = .ok (.raw 0x12#8 0x34#8 0x56#8 0x78#8) ∧
    (encodeFrame 0x12#8 0x34#8 0x56#8 0x78#8)[5] = 0x12#8 ^^^ 0x34#8 ^^^ 0x56#8 ^^^ 0x78#8 ∧
    decode .request [0xF5#8, 0x0C#8, 0x00#8, 0x00#8, 0x00#8, 0x0D#8, 0x00#8, 0xF5#8] =
      .ok (.raw 0x0C#8 0x00#8 0x00#8 0x00#8) ∧
    decode .request [0xF5#8, 0x09#8, 0x00#8, 0x00#8, 0x00#8, 0x08#8, 0x00#8, 0xF5#8] =
      .ok (.raw 0x09#8 0x00#8 0x00#8 0x00#8) ∧
    decode .request [0xF5#8, 0x12#8, 0x34#8, 0x56#8, 0x78#8, 0xFF#8, 0x00#8, 0xF5#8] =
      .ok (.raw 0x12#8 0x34#8 0x56#8 0x78#8) ∧
    decode .request [0xF5#8, 0x09#8, 0x00#8, 0x00#8, 0x01#8, 0x09#8, 0x00#8, 0xF5#8] =
      .ok (.raw 0x09#8 0x00#8 0x00#8 0x01#8) ∧
    decode .response (responseFrame 0x01#8 0x02#8 0x03#8 0x04#8 0x05#8 0x06#8).toList =
      .ok (.ackDatabaseFull 0x01#8 0x02#8 0x03#8 0x05#8 0x06#8) := by decide

theorem witness_EnrollStepsIssueTheirFrames : State.reset.phase = .idle ∧
    0x0A#8 = (0x0ABC#16).extractLsb' 8 8 ∧ 0xBC#8 = (0x0ABC#16).extractLsb' 0 8 := by decide

theorem witness_UserIdRequestsIssueTheirFrames : State.reset.phase = .idle ∧
    0x0A#8 = (0x0ABC#16).extractLsb' 8 8 ∧ 0xBC#8 = (0x0ABC#16).extractLsb' 0 8 := by decide

theorem witness_OperandlessRequestsIssueTheirFrames : State.reset.phase = .idle := by decide

theorem witness_RawRequestIssuesItsFrame : State.reset.phase = .idle := by decide

theorem witness_UserIdRoundTripsThroughTheFrame : ∃ t, State.reset.phase = .idle ∧
    Instr.verify11 0xFFFF#16 ∈ [.enroll1 0xFFFF#16 0x00#8, .enroll2 0xFFFF#16 0x00#8, .enroll3 0xFFFF#16 0x00#8,
      .deluser 0xFFFF#16, .qperm 0xFFFF#16, .verify11 0xFFFF#16] ∧
    exec (.verify11 0xFFFF#16) State.reset = .next t :=
  ⟨_, by decide, by decide, rfl⟩

theorem witness_RequestWhileBusyChangesNothing :
    (sending (formZ 0x05#8) 0).phase ≠ .idle ∧ countEnding.phase ≠ .idle ∧ Instr.delall.direction = .request := by decide

/-- The first byte and the last, with and without the transport's acceptance. -/
theorem witness_TxByteStepSendsOneByte :
    ((sending (formZ 0x05#8) 0).txIdx.toNat < 8 ∧ (sending (formZ 0x05#8) 7).txIdx.toNat < 8) ∧
    (sending (formZ 0x05#8) 7).phase = .tx ∧ ({ txReady := true } : Pins).rst = false ∧
    ({ txReady := true } : Pins).txFail = false ∧ ({} : Pins).rst = false ∧ ({} : Pins).txFail = false := by decide

theorem witness_EightAcceptedBytesSendTheFrame :
    (sending (formZ 0x05#8) 0).phase = .tx ∧ (sending (formZ 0x05#8) 0).txIdx = 0#4 ∧
    (List.replicate 8 ({ txReady := true } : Pins)).length = 8 ∧
    ∀ p ∈ List.replicate 8 ({ txReady := true } : Pins), p.rst = false ∧ p.txFail = false ∧ p.txReady = true := by decide

/-- T-D1 and T-D2: frames that differ in the checksum, with both sentinels right. -/
theorem witness_DecodeNeverChecksEchoChecksumOrReserved :
    let f : Frame := #v[0xF5#8, 0x0C#8, 0x00#8, 0x2A#8, 0x00#8, 0x26#8, 0x00#8, 0xF5#8]
    let g : Frame := #v[0xF5#8, 0x0B#8, 0x00#8, 0x2A#8, 0x00#8, 0x00#8, 0xFF#8, 0xF5#8]
    f ≠ g ∧ f[0] = g[0] ∧ f[2] = g[2] ∧ f[3] = g[3] ∧ f[4] = g[4] ∧ f[7] = g[7] := by decide

theorem witness_ClassifyFollowsTheTable :
    ∀ b ∈ [0x02#8, 0x03#8, 0x09#8, 0xFF#8], ∀ v ∈ [0x00#8, 0x01#8, 0x04#8, 0x05#8, 0x06#8, 0x07#8, 0x08#8], b ≠ v := by
  decide

/-- The first place, the last, and beyond the eighth byte. -/
theorem witness_StandalonePushStoresOneByte :
    (∀ n ∈ [0, 7, 8, 9], (collecting blank n).phase = .idle) ∧
    (let p : Pins := { decPush := true, decByte := 0xF5#8 }
     p.rst = false ∧ p.reqValid = false ∧ p.decClose = false ∧ p.decPush = true) := by decide

theorem witness_ExchangePushStoresOneByte :
    (∀ n ∈ [0, 6], (reading (formZ 0x09#8) blank n [0xF5#8]).phase = .rx ∧
      (reading (formZ 0x09#8) blank n [0xF5#8]).rxCnt.toNat < 7 ∧
      (reading (formZ 0x09#8) blank n [0xF5#8]).rxChan = [0xF5#8]) ∧
    offered.rst = false ∧ offered.rxValid = true := by decide

theorem lastByte_countEnding : LastByteAt offered 0xF5#8 [] countEnding := by
  unfold LastByteAt; decide

theorem witness_EighthByteRecordsAWellFormedFrame :
    LastByteAt offered 0xF5#8 [] countEnding ∧ countEnding.rxBuf[0] = 0xF5#8 :=
  ⟨lastByte_countEnding, by decide⟩

/-- A wrong START with the right END, and the right START with a wrong END. -/
theorem witness_EighthByteRejectsAMalformedFrame :
    (LastByteAt offered 0xF5#8 [] (reading (formZ 0x09#8) blank 7 [0xF5#8]) ∧ blank[0] ≠ 0xF5#8) ∧
    (LastByteAt offered 0x00#8 [] (reading (formZ 0x09#8) (almost 0x09#8 0x00#8 0x0A#8 0x00#8 0x03#8) 7 [0x00#8]) ∧
      0x00#8 ≠ 0xF5#8) := by
  unfold LastByteAt; decide

/-- T-D1 (eight good bytes), T-D3 (bad START), T-D4 (bad END), T-D10 (seven bytes) and T-D11 (nine bytes). -/
theorem witness_StandaloneCloseDecodesTheBuffer :
    (let p : Pins := { decClose := true }
     p.rst = false ∧ p.reqValid = false ∧ p.decClose = true) ∧
    (let good (f : Frame) (n : Nat) : Bool :=
       (collecting f n).rxCnt == 8#4 && (collecting f n).rxBuf[0] == 0xF5#8 && (collecting f n).rxBuf[7] == 0xF5#8
     let f : Frame := #v[0xF5#8, 0x0C#8, 0x00#8, 0x2A#8, 0x00#8, 0x26#8, 0x00#8, 0xF5#8]
     (collecting f 8).phase = .idle ∧ good f 8 = true ∧ good (f.set 0 0xF4#8) 8 = false ∧
       good (f.set 7 0xF4#8) 8 = false ∧ good f 7 = false ∧ good f 9 = false) := by decide

/-- The empty buffer and T-D11. -/
theorem witness_DecodeBufIsDecodeOfTheBuffer :
    ∀ buf ∈ [[], [0xF5#8, 0x0C#8, 0x00#8, 0x2A#8, 0x00#8, 0x26#8, 0x00#8, 0xF5#8, 0x00#8]],
      (withMoves (decodeBufMoves buf) State.reset).phase = .idle ∧
      (withMoves (decodeBufMoves buf) State.reset).rxCnt = 0#4 ∧
      (withMoves (decodeBufMoves buf) State.reset).inputs = decodeBufMoves buf ++ [] := by decide

theorem witness_NamedAcknowledgmentsCompleteTheExchange :
    (reading (formZ 0x09#8) blank 0 []).phase = .rx ∧ (reading (formZ 0x09#8) blank 0 []).rxCnt = 0#4 ∧
    (reading (formZ 0x09#8) blank 0 []).rxChan = [] := by decide

theorem witness_UnknownAcknowledgmentCompletesTheExchange :
    ((reading (formZ 0x09#8) blank 0 []).phase = .rx ∧ (reading (formZ 0x09#8) blank 0 []).rxCnt = 0#4 ∧
      (reading (formZ 0x09#8) blank 0 []).rxChan = []) ∧
    ∀ q ∈ [0x02#8, 0x03#8, 0x09#8, 0xFF#8], ∀ v ∈ [0x00#8, 0x01#8, 0x04#8, 0x05#8, 0x06#8, 0x07#8, 0x08#8], q ≠ v := by
  decide

theorem witness_ResponsesWaitOutsidePhaseRx :
    (Instr.ackTimeout 0x00#8 0x00#8 0x00#8 0x00#8 0x00#8).direction = .response ∧ State.reset.phase ≠ .rx ∧
    (sending (formZ 0x09#8) 2).phase ≠ .rx := by decide

/-- P3: five stale bytes. -/
theorem witness_StaleBytesAreTakenFirst :
    let s := reading (formU 0x04#8 0x0001#16) blank 0 [0x00#8, 0x02#8, 0x08#8, 0x00#8, 0xF5#8]
    (Instr.ackSuccess 0x04#8 0x00#8 0x00#8 0x04#8 0x00#8).direction = .response ∧ s.phase = .rx ∧ s.rxCnt = 0#4 := by
  decide

/-- T-X1 (Success) and T-O3 (Fail). -/
theorem witness_CountReportsTheCountOnSuccess :
    (LastByteAt offered 0xF5#8 [] countEnding ∧ countEnding.rxBuf[0] = 0xF5#8 ∧ countEnding.txBuf[1] = 0x09#8 ∧
      countEnding.rxBuf[4] = 0x00#8) ∧
    (let s := reading (formZ 0x09#8) (almost 0x09#8 0x00#8 0x0A#8 0x01#8 0x02#8) 7 [0xF5#8]
     LastByteAt offered 0xF5#8 [] s ∧ s.rxBuf[0] = 0xF5#8 ∧ s.txBuf[1] = 0x09#8 ∧ s.rxBuf[4] ≠ 0x00#8) := by
  unfold LastByteAt; decide

/-- T-O7 (NoUser) and T-O6 (a level). -/
theorem witness_QueryPermissionReportsByteFour :
    ∀ q3 ∈ [0x05#8, 0x02#8],
      let s := reading (formU 0x0A#8 0x0ABC#16) (almost 0x0A#8 0x00#8 0x00#8 q3 0x00#8) 7 [0xF5#8]
      LastByteAt offered 0xF5#8 [] s ∧ s.rxBuf[0] = 0xF5#8 ∧ s.txBuf[1] = 0x0A#8 ∧ s.rxBuf[4] = q3 := by
  unfold LastByteAt; decide

/-- T-S6, T-O5, T-O4. -/
theorem witness_VerifyOneToManyReportsTheMatch :
    ∀ q3 ∈ [0x05#8, 0x08#8, 0x03#8],
      let s := reading (formZ 0x0C#8) (almost 0x0C#8 0x0A#8 0xBC#8 q3 0x00#8) 7 [0xF5#8]
      LastByteAt offered 0xF5#8 [] s ∧ s.rxBuf[0] = 0xF5#8 ∧ s.txBuf[1] = 0x0C#8 ∧ s.rxBuf[4] = q3 := by
  unfold LastByteAt; decide

/-- A status command, and an unnamed one. -/
theorem witness_OtherCommandsReportTheStatus :
    ∀ c ∈ [0x05#8, 0x12#8],
      let s := reading ⟨c, 0x00#8, 0x00#8, 0x00#8⟩ (almost c 0x00#8 0x00#8 0x00#8 0x00#8) 7 [0xF5#8]
      LastByteAt offered 0xF5#8 [] s ∧ s.rxBuf[0] = 0xF5#8 ∧ s.txBuf[1] ≠ 0x09#8 ∧ s.txBuf[1] ≠ 0x0A#8 ∧
        s.txBuf[1] ≠ 0x0C#8 := by
  unfold LastByteAt; decide

/-- T-O12: the echo of another command. -/
theorem witness_ResultIgnoresEchoChecksumAndReserved : ∃ t,
    let buf : Frame := #v[0xF5#8, 0x05#8, 0x00#8, 0x0A#8, 0x00#8, 0xFF#8, 0xFF#8, 0x00#8]
    LastByteAt offered 0xF5#8 [] countEnding ∧ buf ≠ countEnding.rxBuf ∧ buf[0] = countEnding.rxBuf[0] ∧
      buf[2] = countEnding.rxBuf[2] ∧ buf[3] = countEnding.rxBuf[3] ∧ buf[4] = countEnding.rxBuf[4] ∧
      clockEdge offered countEnding = .next t :=
  ⟨_, lastByte_countEnding, by decide, by decide, by decide, by decide, by decide, rfl⟩

/-- The result register at the end of T-X1. -/
def countDone : State :=
  { reading (formZ 0x09#8) #v[0xF5#8, 0x09#8, 0x00#8, 0x0A#8, 0x00#8, 0x03#8, 0x00#8, 0xF5#8] 0 [] with
    phase := .idle, resValid := true, resKind := .ok, resOpValid := true
    resData := ⟨0x09#8, 0x00#8, 0x0A#8, 0x00#8, 0x03#8, 0x00#8, 0x000A#16, 0#3, true, 4#3⟩ }

theorem countDone_resultInv : ResultInv countDone := by
  constructor <;> decide

theorem witness_PortsCarryTheOperationResult :
    ResultInv countDone ∧ countDone.resKind = .ok ∧ countDone.resOpValid = true :=
  ⟨countDone_resultInv, by decide, by decide⟩

theorem witness_TransportEventsEndTheExchange :
    ((sending (formZ 0x09#8) 3).phase = .tx ∧ ({ txFail := true } : Pins).rst = false ∧
      ({ txFail := true } : Pins).txFail = true) ∧
    ((reading (formZ 0x09#8) blank 7 []).phase = .rx ∧ (reading (formZ 0x09#8) blank 7 []).rxChan = [] ∧
      ({ rxFail := true } : Pins).rst = false ∧ ({ rxFail := true } : Pins).rxFail = true) ∧
    (countEnding.phase = .rx ∧ ({ rxTimeout := true } : Pins).rst = false ∧
      ({ rxTimeout := true } : Pins).rxValid = false ∧ ({ rxTimeout := true } : Pins).rxFail = false ∧
      ({ rxTimeout := true } : Pins).rxTimeout = true) ∧
    ((reading (formZ 0x09#8) blank 7 []).phase = .rx ∧ (reading (formZ 0x09#8) blank 7 []).rxChan = [] ∧
      (let p : Pins := { rxValid := true, rxTimeout := true }
       p.rst = false ∧ p.rxValid = true ∧ p.rxFail = false ∧ p.rxTimeout = true)) := by decide

/-- T-X3: eight accepted bytes, three delivered, a timeout; and a write-all that still waits. -/
theorem witness_ExchangeRefinesItsFunction :
    (∀ n ∈ [7, 8],
      let txs := List.replicate n TxAnswer.accept
      let rxs := [RxAnswer.deliver 0xF5#8, .deliver 0x0C#8, .deliver 0x00#8, .timeout]
      let s := withMoves (exchangeMoves (formZ 0x0C#8) txs rxs) State.reset
      s.phase = .idle ∧ s.rxChan = [] ∧ s.inputs = exchangeMoves (formZ 0x0C#8) txs rxs) ∧
    exchange (formZ 0x0C#8) (List.replicate 7 TxAnswer.accept) [.timeout] = none ∧
    exchange (formZ 0x0C#8) (List.replicate 8 TxAnswer.accept)
      [.deliver 0xF5#8, .deliver 0x0C#8, .deliver 0x00#8, .timeout] = some (.ioError .readTimeout) := by decide

/-- A malformed frame, an I/O error and a value. -/
theorem witness_ErrorsComeFirst :
    ((raiseMalformed true countEnding).resOpValid = true ∧ (raiseMalformed true countEnding).resKind = .malformed) ∧
    ((raiseIoError .readFailed countEnding).resOpValid = true ∧ (raiseIoError .readFailed countEnding).resKind = .ioErr) ∧
    (countDone.resOpValid = true ∧ opResult countDone = some (.done (.userCount 0x000A#16))) := by decide

theorem witness_ErrorsComeFirst_ioErr : ResultInv (raiseIoError .readFailed countEnding) := by
  constructor <;> decide

/-- Every change of phase, the eighth byte alone and among those of a whole frame. -/
theorem witness_PhaseFollowsTheExchange :
    (∃ t, step (withMoves [requestEdge (formZ 0x09#8)] State.reset) = .next t ∧ .idle ≠ t.phase) ∧
    (∃ t, step (withMoves [.edge { txReady := true }] (sending (formZ 0x09#8) 7)) = .next t ∧ .tx ≠ t.phase) ∧
    (∃ t, step (withMoves [.edge { txFail := true }] (sending (formZ 0x09#8) 7)) = .next t ∧ .tx ≠ t.phase) ∧
    (∃ t, step (withMoves [.edge offered] countEnding) = .next t ∧ .rx ≠ t.phase) ∧
    (∃ t, step (withMoves [.response 0xF509000A000300F5#64] (reading (formZ 0x09#8) blank 0 [])) = .next t ∧
      .rx ≠ t.phase) ∧
    (∃ t, step (withMoves [.edge { rxFail := true, rxTimeout := true }] countEnding) = .next t ∧ .rx ≠ t.phase) ∧
    (∃ t, step (withMoves [.edge { rxTimeout := true }] countEnding) = .next t ∧ .rx ≠ t.phase) ∧
    (∃ t, step (withMoves [.edge { rst := true }] countEnding) = .next t ∧ .rx ≠ t.phase) :=
  ⟨⟨_, rfl, by decide⟩, ⟨_, rfl, by decide⟩, ⟨_, rfl, by decide⟩, ⟨_, rfl, by decide⟩, ⟨_, rfl, by decide⟩,
    ⟨_, rfl, by decide⟩, ⟨_, rfl, by decide⟩, ⟨_, rfl, by decide⟩⟩

theorem witness_TxBufferChangesOnlyAtIssue :
    ∃ t, step (withMoves [requestEdge (formZ 0x09#8)] State.reset) = .next t ∧ t.txBuf ≠ State.reset.txBuf :=
  ⟨_, rfl, by decide⟩

theorem witness_BytesAreSentOnlyInPhaseTx :
    ∃ t, step (withMoves [.edge { txReady := true }] (sending (formZ 0x09#8) 0)) = .next t ∧ t.txSent = [0xF5#8] :=
  ⟨_, rfl, by decide⟩

/-- A byte that arrives in each phase, behind one waiting in phase RX; a whole frame in phase TX; an edge in phase IDLE. -/
theorem witness_BytesAreTakenOnlyInPhaseRx :
    (withMoves [.arrive 0xF5#8] State.reset).inputs = .arrive 0xF5#8 :: [] ∧
    (∃ t, step (withMoves [.arrive 0xF5#8] (sending (formZ 0x09#8) 3)) = .next t ∧ t.rxChan = [0xF5#8]) ∧
    (∃ t, step (withMoves [.arrive 0x2A#8] countEnding) = .next t ∧ t.rxChan = [0xF5#8, 0x2A#8]) ∧
    ((sending (formZ 0x09#8) 3).phase ≠ .rx ∧
      ∃ t, step (withMoves [.response 0xF509000A000300F5#64] (sending (formZ 0x09#8) 3)) = .next t ∧
        t.rxChan = [0xF5#8, 0x09#8, 0x00#8, 0x0A#8, 0x00#8, 0x03#8, 0x00#8, 0xF5#8]) ∧
    (State.reset.phase ≠ .rx ∧ ∃ t, step (withMoves [.edge offered] State.reset) = .next t) :=
  ⟨by decide, ⟨_, rfl, by decide⟩, ⟨_, rfl, by decide⟩, ⟨by decide, _, rfl, by decide⟩, by decide, _, rfl⟩

/-- A valid result that is cleared; one that stands in phase IDLE while a byte arrives and at an edge that asserts nothing;
a cleared one that stands while phase RX waits. -/
theorem witness_ResultStandsUntilTheNextResult :
    (∃ t, step (withMoves [requestEdge (formZ 0x09#8)] countDone) = .next t ∧ countDone.resValid = true ∧
      t.resValid = false) ∧
    (∃ t, step (withMoves [.edge { rst := true }] countDone) = .next t ∧ t.resValid = false) ∧
    (∃ t, step (withMoves [.arrive 0xF5#8] countDone) = .next t ∧ ResultSame countDone t) ∧
    (∃ t, step (withMoves [.edge {}] countDone) = .next t ∧ ResultSame countDone t) ∧
    (∃ t, step (withMoves [.edge {}] countEnding) = .next t ∧ ResultSame countEnding t) :=
  ⟨⟨_, rfl, by decide, by decide⟩, ⟨_, rfl, by decide⟩, ⟨_, rfl, rfl, rfl, rfl, rfl, rfl⟩, ⟨_, rfl, rfl, rfl, rfl, rfl, rfl⟩,
    ⟨_, rfl, rfl, rfl, rfl, rfl, rfl⟩⟩

/-- Each event that writes the result: a standalone close, a write failure, the last byte alone and in a whole frame, and a
read timeout. -/
theorem witness_ResultStandsUntilTheNextResult_events :
    (∃ t, step (withMoves [.edge { decClose := true }] countDone) = .next t ∧ t.resKind = .malformed) ∧
    (∃ t, step (withMoves [.edge { txFail := true }] (sending (formZ 0x09#8) 7)) = .next t ∧ t.resKind = .ioErr) ∧
    (∃ t, step (withMoves [.edge offered] countEnding) = .next t ∧ t.resKind = .ok) ∧
    (∃ t, step (withMoves [.response 0xF509000A000300F5#64] (reading (formZ 0x09#8) blank 0 [])) = .next t ∧
      t.resKind = .ok) ∧
    (∃ t, step (withMoves [.edge { rxTimeout := true }] countEnding) = .next t ∧ t.resKind = .ioErr) :=
  ⟨⟨_, rfl, by decide⟩, ⟨_, rfl, by decide⟩, ⟨_, rfl, by decide⟩, ⟨_, rfl, by decide⟩, ⟨_, rfl, by decide⟩⟩

theorem witness_HostCannotTouchARunningExchange :
    let p : Pins := { rxValid := true, reqValid := true, decPush := true, decClose := true }
    countEnding.phase ≠ .idle ∧ p ≠ offered ∧ p.rst = offered.rst ∧ p.txReady = offered.txReady ∧
      p.txFail = offered.txFail ∧ p.rxValid = offered.rxValid ∧ p.rxTimeout = offered.rxTimeout ∧
      p.rxFail = offered.rxFail := by decide

/-- Each phase; and edges that assert no input of the phase, with rx_valid on an empty channel, without it on a byte waiting. -/
theorem witness_TransportEventsOutsideTheirPhaseAreLost :
    let quiet : Pins := { rxValid := true }
    let still : Pins := {}
    (State.reset.phase = .idle ∧ (sending (formZ 0x09#8) 3).phase = .tx ∧ countEnding.phase = .rx) ∧
    (quiet.rst = false ∧ quiet.reqValid = false ∧ quiet.decClose = false ∧ quiet.decPush = false ∧
      quiet.txReady = false ∧ quiet.txFail = false ∧ quiet.rxFail = false ∧ quiet.rxTimeout = false) ∧
    ((reading (formZ 0x09#8) blank 0 []).phase = .rx ∧ (reading (formZ 0x09#8) blank 0 []).rxChan = []) ∧
    (still.rst = false ∧ still.rxValid = false ∧ countEnding.rxChan ≠ []) := by decide

/-- Every tie of R247 with all the losing inputs asserted as well. -/
theorem witness_TiesGoToTheStatedWinner :
    let all : Pins :=
      { rst := true, reqValid := true, decPush := true, decClose := true, txReady := true, txFail := true, rxValid := true,
        rxTimeout := true, rxFail := true }
    let noRst : Pins := { all with rst := false }
    let noByte : Pins := { noRst with rxValid := false }
    let noReq : Pins := { noRst with reqValid := false }
    all.rst = true ∧
    (noRst.rst = false ∧ (sending (formZ 0x09#8) 3).phase = .tx ∧ noRst.txFail = true) ∧
    (countEnding.phase = .rx ∧ countEnding.rxChan ≠ [] ∧ noRst.rxValid = true) ∧
    (noByte.rst = false ∧ noByte.rxValid = false ∧ noByte.rxFail = true) ∧
    (State.reset.phase = .idle ∧ noRst.reqValid = true) ∧
    (noReq.rst = false ∧ noReq.reqValid = false ∧ noReq.decClose = true) := by decide

theorem witness_ResetEdgeAbandonsWithoutAResult :
    ({ rst := true, rxValid := true } : Pins).rst = true ∧ countEnding.phase ≠ .idle := by decide

/-- A state in phase RX that meets the control invariant, and its closing step. -/
theorem witness_StepKeepsTheControlInvariant :
    ∃ t, ControlInv (withMoves [.edge offered] countEnding) ∧ step (withMoves [.edge offered] countEnding) = .next t :=
  ⟨_, by constructor <;> decide, rfl⟩

theorem witness_StepKeepsTheResultInvariant :
    ∃ t, ResultInv (withMoves [requestEdge (formZ 0x09#8)] countDone) ∧
      step (withMoves [requestEdge (formZ 0x09#8)] countDone) = .next t :=
  ⟨_, by constructor <;> decide, rfl⟩

theorem witness_StepRunsTheOfferedRequest :
    let p : Pins := { reqValid := true, request := formZ 0x09#8 }
    let s := withMoves [.edge p] State.reset
    s.inputs = .edge p :: [] ∧ s.phase = .idle ∧ p.rst = false ∧ p.reqValid = true := by decide

theorem witness_StepRunsTheArrivingResponse :
    let w := 0xF509000A000300F5#64
    (withMoves [.response w] countEnding).inputs = .response w :: [] ∧
      decode .response (frameOfWord w).toList = .ok (.ackSuccess 0x09#8 0x00#8 0x0A#8 0x03#8 0x00#8) := by decide

theorem witness_PlacedTableWordIsExecuted :
    decodeTableWord 64 0xF501F40000F500F5 = some (.enroll1 0xF400#16 0x00#8) ∧
    decodeTableWord 64 0xF5000000080000F5 = some (.ackTimeout 0x00#8 0x00#8 0x00#8 0x00#8 0x00#8) := by decide

/-- An output without a value, and one that has its value. -/
theorem witness_StepsStopOnlyAtAnOutputWithoutValue :
    (step (withMoves [.sample .resQ3] State.reset) = .fault (.noValue .resQ3) ∧ readPort .resQ3 State.reset = none) ∧
    ((withMoves [.sample .resU16] countDone).inputs = .sample .resU16 :: [] ∧
      readPort .resU16 countDone = some 0x000A#64) :=
  ⟨⟨rfl, by decide⟩, by decide, by decide⟩

theorem witness_DataOutputsHaveAValueExactlyWhenOk :
    countDone.resKind = .ok ∧ State.reset.resKind ≠ .ok := by decide

/-- A byte to send, each kind of result and each cause. -/
theorem witness_OutputsFollowTheState :
    (sending (formZ 0x09#8) 7).txIdx.toNat < 8 ∧
    (State.reset.resKind = .none ∧ countDone.resKind = .ok ∧ (raiseMalformed true countEnding).resKind = .malformed ∧
      (raiseIoError .readFailed countEnding).resKind = .ioErr) ∧
    (State.reset.resIoCause = .none ∧ (raiseIoError .writeFailed countEnding).resIoCause = .writeFailed ∧
      (raiseIoError .readTimeout countEnding).resIoCause = .readTimeout ∧
      (raiseIoError .readFailed countEnding).resIoCause = .readFailed) := by decide

/-! ### Runs: R275, R66 -/

/-- T-X6: COUNT, a write failure before any byte, and a byte that arrives late. -/
def shortRun : State :=
  withMoves [requestEdge (formZ 0x09#8), .edge { txFail := true }, .arrive 0xF5#8] State.reset

/-- The run of one request is finished after two steps, although a byte still arrives. -/
theorem witness_FinishedRun : ∃ t, FinishedRun [formZ 0x09#8] 2 shortRun t ∧ t.inputs = [.arrive 0xF5#8] := by
  refine ⟨_, ⟨⟨rfl, rfl, rfl⟩, rfl, rfl, ?_, ⟨⟨rfl, rfl⟩, by decide⟩⟩, rfl⟩
  intro k hk u hu
  match k, hk with
  | 0, _ => cases hu; decide
  | 1, _ => cases hu; decide

/-- An execution that meets the premises of R66: COUNT's third byte is refused, then nothing more happens. -/
theorem witness_exchange_ends :
    let moves : Nat → Input := fun n => if n = 0 then .edge { txFail := true } else .edge {}
    let states : Nat → State := fun n =>
      if n = 0 then sending (formZ 0x09#8) 2 else raiseIoError .writeFailed (sending (formZ 0x09#8) 2)
    Execution moves states ∧ (∀ n, (moves n).resets = false) ∧ TxProgress moves states ∧ RxProgress moves states ∧
      ControlInv (states 0) ∧ (states 0).phase ≠ .idle := by
  intro moves states
  refine ⟨?_, ?_, ?_, ?_, by constructor <;> decide, by decide⟩
  · rintro (_ | n) <;> rfl
  · rintro (_ | n) <;> rfl
  · intro n h
    exact absurd (h (n + 1) (by omega)) (by simp [states, raiseIoError, enterError])
  · intro n h
    exact absurd (h (n + 1) (by omega)) (by simp [states, raiseIoError, enterError])

end Sys2Proof.Tests
end

section
/-!
PROOFS. The obligations about the state: what every step keeps, what changes the phase, the transmit buffer and the result
register, and what the outputs show (10_state.md). First what each operation can do, then the inversion of a step with the move
that causes its effect, then the obligations.
-/

namespace Sys2Proof.Machine

/-! ### What an error entry is -/

theorem raiseIoError_eq (cause : IoCause) (s : State) :
    ∃ c, c ≠ .none ∧ raiseIoError cause s = enterError .ioErr c true s := by
  cases cause <;> exact ⟨_, by decide, rfl⟩

/-! ### What a close step can do -/

theorem closeExchange_cases (s : State) :
    closeExchange s = recordExchange s ∨ closeExchange s = enterError .malformed .none true s := by
  cases h : bufferGood s
  · exact .inr (closeExchange_bad s h)
  · exact .inl (closeExchange_good s h)

theorem closeStandalone_cases (s : State) :
    closeStandalone s = recordStandalone s ∨ closeStandalone s = enterError .malformed .none false s := by
  cases h : bufferGood s
  · exact .inr (closeStandalone_bad s h)
  · exact .inl (closeStandalone_good s h)

theorem closeExchange_resKind (s : State) : (closeExchange s).resKind = .ok ∨ (closeExchange s).resKind = .malformed := by
  rcases closeExchange_cases s with h | h <;> rw [h]
  · exact .inl rfl
  · exact .inr rfl

@[simp] theorem closeExchange_txBuf (s : State) : (closeExchange s).txBuf = s.txBuf := by
  rcases closeExchange_cases s with h | h <;> rw [h] <;> rfl

@[simp] theorem closeExchange_txIdx (s : State) : (closeExchange s).txIdx = s.txIdx := by
  rcases closeExchange_cases s with h | h <;> rw [h] <;> rfl

@[simp] theorem closeExchange_rxCnt (s : State) : (closeExchange s).rxCnt = 0#4 := by
  rcases closeExchange_cases s with h | h <;> rw [h] <;> rfl

@[simp] theorem closeStandalone_txBuf (s : State) : (closeStandalone s).txBuf = s.txBuf := by
  rcases closeStandalone_cases s with h | h <;> rw [h] <;> rfl

@[simp] theorem closeStandalone_txIdx (s : State) : (closeStandalone s).txIdx = s.txIdx := by
  rcases closeStandalone_cases s with h | h <;> rw [h] <;> rfl

@[simp] theorem closeStandalone_rxCnt (s : State) : (closeStandalone s).rxCnt = 0#4 := by
  rcases closeStandalone_cases s with h | h <;> rw [h] <;> rfl

theorem closeStandalone_phase (s : State) (hp : s.phase = .idle) : (closeStandalone s).phase = .idle := by
  rcases closeStandalone_cases s with h | h <;> rw [h]
  · exact hp
  · rfl

theorem closeStandalone_resValid (s : State) : (closeStandalone s).resValid = true := by
  rcases closeStandalone_cases s with h | h <;> rw [h] <;> rfl

/-! ### What an offered byte can do -/

/-- An offered byte waits, or is stored, or is the eighth and closes the exchange (R166, R189, R190). -/
theorem offerByte_cases (s : State) :
    offerByte s = s ∨ (s.phase = .rx ∧ ∃ b rest, s.rxChan = b :: rest ∧
      ((s.rxCnt = 7#4 ∧ offerByte s = closeExchange (storeByte b (setRxChan rest s))) ∨
       (s.rxCnt ≠ 7#4 ∧ offerByte s = storeByte b (setRxChan rest s)))) := by
  by_cases hp : s.phase = .rx
  · cases hc : s.rxChan with
    | nil => exact .inl (offerByte_waits s (.inr hc))
    | cons b rest =>
      refine .inr ⟨hp, b, rest, rfl, ?_⟩
      rw [offerByte_rx s b rest hp hc]
      by_cases h7 : s.rxCnt = 7#4
      · exact .inl ⟨h7, pushExchange_last b (setRxChan rest s) h7⟩
      · exact .inr ⟨h7, pushExchange_more b (setRxChan rest s) h7⟩
  · exact .inl (offerByte_waits s (.inl hp))

@[simp] theorem offerByte_txBuf (s : State) : (offerByte s).txBuf = s.txBuf := by
  rcases offerByte_cases s with h | ⟨-, b, rest, -, ⟨-, h⟩ | ⟨-, h⟩⟩ <;> simp [h]

@[simp] theorem receiveFrame_txBuf (f : Frame) (s : State) : (receiveFrame f s).txBuf = s.txBuf :=
  receiveFrame_keeps (fun u => u.txBuf = s.txBuf) (fun u h => (offerByte_txBuf u).trans h) f s rfl

@[simp] theorem sendByte_txBuf (s : State) : (sendByte s).txBuf = s.txBuf := by
  unfold sendByte
  split <;> rfl

theorem txIdx_succ_toNat (n : BitVec 4) (h : n.toNat < 8) : (n + 1#4).toNat = n.toNat + 1 := by
  rw [BitVec.toNat_add]
  simp
  omega

theorem txIdx_succ_eq_eight (n : BitVec 4) : n + 1#4 = 8#4 ↔ n = 7#4 := by
  constructor <;> intro h <;> bv_omega

/-! ### Where the result register stands -/

theorem ResultSame.refl (s : State) : ResultSame s s := ⟨rfl, rfl, rfl, rfl, rfl⟩

theorem ResultSame.trans {s t u : State} : ResultSame s t → ResultSame t u → ResultSame s u
  | ⟨v, k, c, o, d⟩, ⟨v', k', c', o', d'⟩ => ⟨v'.trans v, k'.trans k, c'.trans c, o'.trans o, d'.trans d⟩

theorem sendByte_resultSame (s : State) : ResultSame s (sendByte s) := by
  unfold sendByte
  split <;> exact ⟨rfl, rfl, rfl, rfl, rfl⟩

/-- An offered byte other than the eighth leaves the phase and the result register alone (R189). -/
theorem offerByte_notLast (s : State) (h7 : s.rxCnt ≠ 7#4) :
    ResultSame s (offerByte s) ∧ (offerByte s).phase = s.phase := by
  rcases offerByte_cases s with h | ⟨-, b, rest, -, ⟨h, -⟩ | ⟨-, h⟩⟩
  · rw [h]; exact ⟨.refl s, rfl⟩
  · exact absurd h h7
  · rw [h]; exact ⟨⟨rfl, rfl, rfl, rfl, rfl⟩, rfl⟩

/-- With enough bytes waiting and enough of them offered, an exchange that is still reading is closed (R190). -/
theorem offerBytes_closes (n : Nat) (s : State) (hp : s.phase = .rx) (h8 : s.rxCnt.toNat < 8)
    (hn : 8 ≤ s.rxCnt.toNat + n) (hc : 8 ≤ s.rxCnt.toNat + s.rxChan.length) :
    ∃ u, offerBytes n s = closeExchange u := by
  induction n generalizing s with
  | zero => omega
  | succ n ih =>
    rcases hr : s.rxChan with _ | ⟨b, rest⟩
    · rw [hr, List.length_nil] at hc; omega
    rw [hr, List.length_cons] at hc
    rw [offerBytes, offerByte_rx s b rest hp hr]
    by_cases h7 : s.rxCnt = 7#4
    · rw [pushExchange_last b (setRxChan rest s) h7, offerBytes_waits n _ (by rw [closeExchange_idle]; decide)]
      exact ⟨_, rfl⟩
    · rw [pushExchange_more b (setRxChan rest s) h7]
      have hne : s.rxCnt.toNat ≠ 7 := fun h => h7 (BitVec.eq_of_toNat_eq h)
      have hup : (countUp s.rxCnt).toNat = s.rxCnt.toNat + 1 := by rw [countUp_toNat]; omega
      exact ih _ hp (by simp [hup]; omega) (by simp [hup]; omega) (by simp [hup]; omega)

/-- A whole frame that arrives closes an exchange that is still reading; in every other state it leaves the phase and the
result register alone (R63, R190; log entry 7). -/
theorem receiveFrame_cases (f : Frame) (s : State) :
    (s.phase = .rx ∧ s.rxCnt.toNat < 8 ∧ ∃ u, receiveFrame f s = closeExchange u) ∨
    (ResultSame s (receiveFrame f s) ∧ (receiveFrame f s).phase = s.phase) := by
  by_cases hp : s.phase = .rx
  · by_cases h8 : s.rxCnt.toNat < 8
    · exact .inl ⟨hp, h8, offerBytes_closes 8 _ hp h8 (by omega) (by simp; omega)⟩
    · refine .inr (receiveFrame_keeps
        (fun u => 8 ≤ u.rxCnt.toNat ∧ ResultSame s u ∧ u.phase = s.phase) ?_ f s ?_).2
      · rintro u ⟨hu, hsame, hphase⟩
        have h7 : u.rxCnt ≠ 7#4 := by rintro h; rw [h] at hu; exact absurd hu (by decide)
        obtain ⟨hsame', hphase'⟩ := offerByte_notLast u h7
        refine ⟨?_, hsame.trans hsame', hphase'.trans hphase⟩
        rcases offerByte_cases u with h | ⟨-, b, rest, -, ⟨h, -⟩ | ⟨-, h⟩⟩
        · rw [h]; exact hu
        · exact absurd h h7
        · rw [h, storeByte_rxCnt, setRxChan_rxCnt, countUp_toNat]; omega
      · exact ⟨Nat.le_of_not_lt h8, ⟨rfl, rfl, rfl, rfl, rfl⟩, rfl⟩
  · rw [receiveFrame_waits f s hp]
    exact .inr ⟨⟨rfl, rfl, rfl, rfl, rfl⟩, rfl⟩

/-! ### What a step can do, with the move that causes it -/

/-- The effects of one move, each but `hold` with the pins that make it win (R247) and the phase that makes it possible
(R45). -/
inductive MoveEffect (s : State) : Input → State → Prop where
  | hold (m : Input) : MoveEffect s m s
  | rst (p : Pins) : p.rst = true → MoveEffect s (.edge p) (applyRst s)
  | issue (p : Pins) : p.rst = false → s.phase = .idle → p.reqValid = true →
      MoveEffect s (.edge p) (issue p.request s)
  | closeStandalone (p : Pins) : p.rst = false → s.phase = .idle → p.reqValid = false → p.decClose = true →
      MoveEffect s (.edge p) (closeStandalone s)
  | pushStandalone (p : Pins) : p.rst = false → s.phase = .idle → p.reqValid = false → p.decClose = false →
      p.decPush = true → MoveEffect s (.edge p) (pushStandalone p.decByte s)
  | writeFailed (p : Pins) : p.rst = false → s.phase = .tx → p.txFail = true →
      MoveEffect s (.edge p) (raiseIoError .writeFailed s)
  | sendByte (p : Pins) : p.rst = false → s.phase = .tx → p.txFail = false → p.txReady = true → s.txIdx.toNat < 8 →
      MoveEffect s (.edge p) (sendByte s)
  | takeByte (p : Pins) : p.rst = false → s.phase = .rx → p.rxValid = true → s.rxChan ≠ [] →
      MoveEffect s (.edge p) (offerByte s)
  | readFailed (p : Pins) : p.rst = false → s.phase = .rx → (p.rxValid = false ∨ s.rxChan = []) → p.rxFail = true →
      MoveEffect s (.edge p) (raiseIoError .readFailed s)
  | readTimeout (p : Pins) : p.rst = false → s.phase = .rx → (p.rxValid = false ∨ s.rxChan = []) → p.rxFail = false →
      p.rxTimeout = true → MoveEffect s (.edge p) (raiseIoError .readTimeout s)
  | arrive (b : Byte) : MoveEffect s (.arrive b) (arriveByte b s)
  | receive (w : FrameWord) : MoveEffect s (.response w) (receiveFrame (frameOfWord w) s)

section
variable (p : Pins) (s : State) (hr : p.rst = false)
include hr

theorem edgeIdle_moveEffect (hp : s.phase = .idle) :
    ∃ t, edgeIdle p s = .next t ∧ MoveEffect s (.edge p) t := by
  unfold edgeIdle
  rw [exec_requestInstr, offerRequest_idle _ s hp]
  split
  · next h => exact ⟨_, rfl, .issue p hr hp h⟩
  next hreq =>
  have hreq := Bool.eq_false_of_not_eq_true hreq
  split
  · next h => exact ⟨_, rfl, .closeStandalone p hr hp hreq h⟩
  next hclose =>
  split
  · next h => exact ⟨_, rfl, .pushStandalone p hr hp hreq (Bool.eq_false_of_not_eq_true hclose) h⟩
  · exact ⟨_, rfl, .hold _⟩

theorem edgeTx_moveEffect (hp : s.phase = .tx) : MoveEffect s (.edge p) (edgeTx p s) := by
  unfold edgeTx
  split
  · next h => exact .writeFailed p hr hp h
  next hf =>
  split
  · next h =>
    by_cases hi : s.txIdx.toNat < 8
    · exact .sendByte p hr hp (Bool.eq_false_of_not_eq_true hf) h hi
    · rw [sendByte_disabled s hi]; exact .hold _
  · exact .hold _

theorem edgeRx_moveEffect (hp : s.phase = .rx) : MoveEffect s (.edge p) (edgeRx p s) := by
  unfold edgeRx
  split
  · next h => exact .takeByte p hr hp h.1 h.2
  next hv =>
  have hv : p.rxValid = false ∨ s.rxChan = [] := by rwa [not_and_or, not_not, Bool.not_eq_true] at hv
  split
  · next h => exact .readFailed p hr hp hv h
  next hf =>
  split
  · next h => exact .readTimeout p hr hp hv (Bool.eq_false_of_not_eq_true hf) h
  · exact .hold _

end

/-- A clock edge always answers a next state, one of the effects above. -/
theorem clockEdge_moveEffect (p : Pins) (s : State) : ∃ t, clockEdge p s = .next t ∧ MoveEffect s (.edge p) t := by
  unfold clockEdge
  split
  · next h => exact ⟨_, rfl, .rst p h⟩
  next hr =>
  have hr := Bool.eq_false_of_not_eq_true hr
  split
  · next hp => exact edgeIdle_moveEffect p s hr hp
  · next hp => exact ⟨_, rfl, edgeTx_moveEffect p s hr hp⟩
  · next hp => exact ⟨_, rfl, edgeRx_moveEffect p s hr hp⟩

/-- A move answers a next state, one of the effects above, unless it reads an output that has no value. -/
theorem takeInput_moveEffect (m : Input) (s : State) :
    (∃ t, takeInput m s = .next t ∧ MoveEffect s m t) ∨
    (∃ port, m = .sample port ∧ readPort port s = none ∧ takeInput m s = .fault (.noValue port)) := by
  cases m with
  | edge p => exact .inl (clockEdge_moveEffect p s)
  | arrive b => exact .inl ⟨_, rfl, .arrive b⟩
  | response w => exact .inl ⟨_, receiveWord_next w s, .receive w⟩
  | sample port =>
    cases h : readPort port s with
    | some v => exact .inl ⟨s, by simp [takeInput, sampleOutput, h], .hold _⟩
    | none => exact .inr ⟨port, rfl, h, by simp [takeInput, sampleOutput, h]⟩

/-- The inversion of a step with its cause: with no move to come it holds; otherwise the next move is taken off the list and
has one of its effects. -/
theorem step_moveEffect (s t : State) (h : step s = .next t) :
    t = s ∨ ∃ m rest, s.inputs = m :: rest ∧ MoveEffect (setInputs rest s) m t := by
  rcases hi : s.inputs with _ | ⟨m, rest⟩
  · left
    simpa [step, takeNext, hi] using h.symm
  · refine .inr ⟨m, rest, rfl, ?_⟩
    rw [step_input s m rest hi] at h
    rcases takeInput_moveEffect m (setInputs rest s) with ⟨u, hu, he⟩ | ⟨port, -, -, hf⟩
    · cases hu.symm.trans h; exact he
    · cases hf.symm.trans h

/-! ### The control invariant (O52, O53) -/

/-- The invariant speaks of five fields only. -/
theorem ControlInv.congr {s t : State} (h : ControlInv s) (hidx : t.txIdx = s.txIdx) (hcnt : t.rxCnt = s.rxCnt)
    (hphase : t.phase = s.phase) (hbuf : t.txBuf = s.txBuf) (hvalid : t.resValid = s.resValid) : ControlInv t := by
  obtain ⟨idx, cnt, sending, reading, frame, empty⟩ := h
  constructor <;> simpa only [hidx, hcnt, hphase, hbuf, hvalid]

theorem ControlInv.idle {s : State} (hp : s.phase = .idle) (hi : s.txIdx.toNat ≤ 8) (hn : s.rxCnt.toNat ≤ 9) :
    ControlInv s where
  txIdx_le := hi
  rxCnt_le := hn
  tx_sending h := by rw [hp] at h; cases h
  rx_reading h := by rw [hp] at h; cases h
  busy_frame h := absurd hp h
  busy_empty h := absurd hp h

theorem enterError_keeps_controlInv {s : State} (h : ControlInv s) (k : ResKind) (c : ResIoCause) (x : Bool) :
    ControlInv (enterError k c x s) :=
  .idle rfl h.txIdx_le (by simp)

theorem raiseIoError_keeps_controlInv {s : State} (h : ControlInv s) (cause : IoCause) : ControlInv (raiseIoError cause s) := by
  obtain ⟨c, -, hc⟩ := raiseIoError_eq cause s
  rw [hc]
  exact enterError_keeps_controlInv h _ c true

theorem issue_controlInv (r : Request) (s : State) : ControlInv (issue r s) where
  txIdx_le := by simp
  rxCnt_le := by simp
  tx_sending _ := by simp
  rx_reading h := by simp at h
  busy_frame _ := rfl
  busy_empty _ := rfl

theorem sendByte_keeps_controlInv {s : State} (h : ControlInv s) (hp : s.phase = .tx) : ControlInv (sendByte s) := by
  obtain ⟨hi, hn⟩ := h.tx_sending hp
  have hsucc := txIdx_succ_toNat s.txIdx hi
  have hbusy : s.phase ≠ .idle := by rw [hp]; decide
  rw [sendByte_enabled s hi]
  refine ⟨by simp only [hsucc]; omega, h.rxCnt_le, ?_, ?_, fun _ => h.busy_frame hbusy, fun _ => h.busy_empty hbusy⟩
  · intro hphase
    have h8 : s.txIdx + 1#4 ≠ 8#4 := by intro h8; simp [h8] at hphase
    have hne : (s.txIdx + 1#4).toNat ≠ 8 := fun e => h8 (BitVec.eq_of_toNat_eq e)
    exact ⟨by simp only [hsucc] at hne ⊢; omega, hn⟩
  · intro hphase
    have h8 : s.txIdx + 1#4 = 8#4 := by
      by_contra h8
      simp [h8, hp] at hphase
    exact ⟨h8, by simp [hn]⟩

theorem offerByte_keeps_controlInv {s : State} (h : ControlInv s) : ControlInv (offerByte s) := by
  rcases offerByte_cases s with he | ⟨hp, b, rest, -, ⟨-, he⟩ | ⟨h7, he⟩⟩ <;> rw [he]
  · exact h
  · exact .idle (closeExchange_idle _) (by simpa using h.txIdx_le) (by simp)
  · obtain ⟨h8, hn⟩ := h.rx_reading hp
    have hbusy : s.phase ≠ .idle := by rw [hp]; decide
    have hne : s.rxCnt.toNat ≠ 7 := fun e => h7 (BitVec.eq_of_toNat_eq e)
    have hup : (countUp s.rxCnt).toNat < 8 := by rw [countUp_toNat]; omega
    exact ⟨h.txIdx_le, Nat.le_of_lt (Nat.lt_succ_of_lt hup), fun ht => by simp [hp] at ht, fun _ => ⟨h8, hup⟩,
      fun _ => h.busy_frame hbusy, fun _ => h.busy_empty hbusy⟩

theorem ControlInv.keptBy {s t : State} {m : Input} (h : ControlInv s) (he : MoveEffect s m t) : ControlInv t := by
  cases he with
  | hold => exact h
  | rst p _ => exact .idle rfl (by simp) (by simp)
  | issue p _ _ _ => exact issue_controlInv _ s
  | closeStandalone p _ hp _ _ => exact .idle (closeStandalone_phase s hp) (by simpa using h.txIdx_le) (by simp)
  | pushStandalone p _ hp _ _ _ => exact .idle hp h.txIdx_le (by simp [pushStandalone, countUp_toNat])
  | writeFailed p _ _ _ => exact raiseIoError_keeps_controlInv h _
  | sendByte p _ hp _ _ _ => exact sendByte_keeps_controlInv h hp
  | takeByte p _ _ _ _ => exact offerByte_keeps_controlInv h
  | readFailed p _ _ _ _ => exact raiseIoError_keeps_controlInv h _
  | readTimeout p _ _ _ _ _ => exact raiseIoError_keeps_controlInv h _
  | arrive b => exact h.congr rfl rfl rfl rfl rfl
  | receive w =>
    exact receiveFrame_keeps ControlInv (fun _ => offerByte_keeps_controlInv) _ s (h.congr rfl rfl rfl rfl rfl)

/-- Settles O53: each effect of a move keeps the invariant. -/
theorem stepKeepsTheControlInvariant : Obligations.StepKeepsTheControlInvariant := by
  intro s t h hs
  rcases step_moveEffect s t hs with rfl | ⟨m, rest, -, he⟩
  · exact h
  · exact ControlInv.keptBy (s := setInputs rest s) (h.congr rfl rfl rfl rfl rfl) he

/-! ### The coherence of the result register (O54) -/

/-- Coherence speaks of the result register and the transmit buffer only. -/
theorem ResultInv.congr {s t : State} (h : ResultInv s) (hsame : ResultSame s t) (hbuf : t.txBuf = s.txBuf) :
    ResultInv t := by
  obtain ⟨hv, hk, hc, ho, hd⟩ := hsame
  obtain ⟨valid, cause, noneOp, ioOp, u16, cls, chk, op⟩ := h
  constructor <;> rw [hk] <;> simpa only [hv, hc, ho, hd, hbuf]

/-- An empty result is coherent. -/
theorem resultInv_none {s : State} (hk : s.resKind = .none) (hv : s.resValid = false) (hc : s.resIoCause = .none)
    (ho : s.resOpValid = false) : ResultInv s := by
  constructor <;> simp [hk, hv, hc, ho]

/-- An error entry is coherent when its cause is an I/O cause exactly for an I/O error, which only an exchange has. -/
theorem enterError_resultInv (k : ResKind) (c : ResIoCause) (x : Bool) (s : State)
    (h : (k = .malformed ∧ c = .none) ∨ (k = .ioErr ∧ c ≠ .none ∧ x = true)) : ResultInv (enterError k c x s) := by
  rcases h with ⟨rfl, rfl⟩ | ⟨rfl, hc, rfl⟩
  · constructor <;> simp
  · constructor <;> simp [hc]

theorem raiseIoError_resultInv (cause : IoCause) (s : State) : ResultInv (raiseIoError cause s) := by
  obtain ⟨c, hc, he⟩ := raiseIoError_eq cause s
  rw [he]
  exact enterError_resultInv .ioErr c true s (.inr ⟨rfl, hc, rfl⟩)

theorem recordExchange_resultInv (s : State) : ResultInv (recordExchange s) := by
  constructor <;> simp [frameData, chkVerify, captured]

theorem recordStandalone_resultInv (s : State) : ResultInv (recordStandalone s) := by
  constructor <;> simp [frameData, chkVerify]

theorem closeExchange_resultInv (s : State) : ResultInv (closeExchange s) := by
  rcases closeExchange_cases s with h | h <;> rw [h]
  · exact recordExchange_resultInv s
  · exact enterError_resultInv _ _ _ s (.inl ⟨rfl, rfl⟩)

theorem closeStandalone_resultInv (s : State) : ResultInv (closeStandalone s) := by
  rcases closeStandalone_cases s with h | h <;> rw [h]
  · exact recordStandalone_resultInv s
  · exact enterError_resultInv _ _ _ s (.inl ⟨rfl, rfl⟩)

theorem offerByte_keeps_resultInv {s : State} (h : ResultInv s) : ResultInv (offerByte s) := by
  by_cases h7 : s.rxCnt = 7#4
  · rcases offerByte_cases s with he | ⟨-, b, rest, -, ⟨-, he⟩ | ⟨hne, -⟩⟩
    · rwa [he]
    · rw [he]; exact closeExchange_resultInv _
    · exact absurd h7 hne
  · exact h.congr (offerByte_notLast s h7).1 (offerByte_txBuf s)

theorem ResultInv.keptBy {s t : State} {m : Input} (h : ResultInv s) (he : MoveEffect s m t) : ResultInv t := by
  cases he with
  | hold => exact h
  | rst p _ => exact resultInv_none rfl rfl rfl rfl
  | issue p _ _ _ => exact resultInv_none rfl rfl rfl rfl
  | closeStandalone p _ _ _ _ => exact closeStandalone_resultInv s
  | pushStandalone p _ _ _ _ _ => exact h.congr ⟨rfl, rfl, rfl, rfl, rfl⟩ rfl
  | writeFailed p _ _ _ => exact raiseIoError_resultInv _ s
  | sendByte p _ _ _ _ _ => exact h.congr (sendByte_resultSame s) (sendByte_txBuf s)
  | takeByte p _ _ _ _ => exact offerByte_keeps_resultInv h
  | readFailed p _ _ _ _ => exact raiseIoError_resultInv _ s
  | readTimeout p _ _ _ _ _ => exact raiseIoError_resultInv _ s
  | arrive b => exact h.congr ⟨rfl, rfl, rfl, rfl, rfl⟩ rfl
  | receive w =>
    exact receiveFrame_keeps ResultInv (fun _ => offerByte_keeps_resultInv) _ s (h.congr ⟨rfl, rfl, rfl, rfl, rfl⟩ rfl)

/-- Settles O54: each effect of a move leaves the result register as it was or writes a coherent one. -/
theorem stepKeepsTheResultInvariant : Obligations.StepKeepsTheResultInvariant := by
  intro s t h hs
  rcases step_moveEffect s t hs with rfl | ⟨m, rest, -, he⟩
  · exact h
  · exact ResultInv.keptBy (s := setInputs rest s) (h.congr ⟨rfl, rfl, rfl, rfl, rfl⟩ rfl) he

/-! ### The state after reset (O51, O52) -/

/-- Settles O51: the state after reset is a literal. -/
theorem resetStateHasTheSpecValues : Obligations.ResetStateHasTheSpecValues :=
  ⟨⟨rfl, rfl, rfl⟩, rfl, rfl, rfl, rfl⟩

/-- Settles O52: phase IDLE with an empty result meets both invariants. -/
theorem resetStateMeetsTheInvariant : Obligations.ResetStateMeetsTheInvariant :=
  ⟨.idle rfl (by decide) (by decide), resultInv_none rfl rfl rfl rfl⟩

/-! ### Phase, transmit buffer and result register along a step (O42, O43, O46) -/

/-- Settles O43: every effect but an issue and a reset leaves `tx_buf` alone. -/
theorem txBufferChangesOnlyAtIssue : Obligations.TxBufferChangesOnlyAtIssue := by
  intro s t hs hne
  rcases step_moveEffect s t hs with rfl | ⟨m, rest, hi, he⟩
  · exact absurd rfl hne
  cases he with
  | rst p hr => exact ⟨p, rest, hi, .inl hr⟩
  | issue p _ hp hreq => exact ⟨p, rest, hi, .inr ⟨hp, hreq, rfl⟩⟩
  | hold => exact absurd rfl hne
  | closeStandalone p _ _ _ _ => exact absurd (closeStandalone_txBuf _) hne
  | pushStandalone p _ _ _ _ _ => exact absurd rfl hne
  | writeFailed p _ _ _ => exact absurd rfl hne
  | sendByte p _ _ _ _ _ => exact absurd (sendByte_txBuf _) hne
  | takeByte p _ _ _ _ => exact absurd (offerByte_txBuf _) hne
  | readFailed p _ _ _ _ => exact absurd rfl hne
  | readTimeout p _ _ _ _ _ => exact absurd rfl hne
  | arrive b => exact absurd rfl hne
  | receive w => exact absurd (receiveFrame_txBuf _ _) hne

/-- The TX byte step leaves phase TX exactly by the byte at offset 7 (R142, R188). -/
theorem sendByte_changes_phase (s : State) (hi : s.txIdx.toNat < 8)
    (hne : s.phase ≠ (sendByte s).phase) :
    s.txIdx = 7#4 ∧ (sendByte s).phase = .rx ∧ (sendByte s).txIdx = 8#4 := by
  rw [sendByte_enabled s hi] at hne ⊢
  by_cases h8 : s.txIdx + 1#4 = 8#4
  · exact ⟨(txIdx_succ_eq_eight _).1 h8, by simp [h8], h8⟩
  · simp [h8] at hne

/-- A byte taken leaves phase RX exactly as the eighth, with the close step's result (R190). -/
theorem offerByte_changes_phase (s : State) (hne : s.phase ≠ (offerByte s).phase) :
    s.rxCnt = 7#4 ∧ ∃ u, offerByte s = closeExchange u := by
  rcases offerByte_cases s with h | ⟨-, b, rest, -, ⟨h7, h⟩ | ⟨-, h⟩⟩
  · rw [h] at hne; exact absurd rfl hne
  · exact ⟨h7, _, h⟩
  · rw [h] at hne; exact absurd rfl hne

/-- Settles O42: of the effects of a move, those that change the phase are the six the statement lists. -/
theorem phaseFollowsTheExchange : Obligations.PhaseFollowsTheExchange := by
  intro s t hs hne
  rcases step_moveEffect s t hs with rfl | ⟨m, rest, hi, he⟩
  · exact absurd rfl hne
  cases he with
  | hold => exact absurd rfl hne
  | rst p hr => exact .inr (.inr (.inr (.inr (.inr ⟨rfl, rfl, p, rest, hi, hr⟩))))
  | issue p hr hp hreq => exact .inl ⟨hp, rfl, p, rest, hi, hr, hreq⟩
  | closeStandalone p _ hp _ _ => exact absurd (hp.trans (closeStandalone_phase _ hp).symm) hne
  | pushStandalone p _ _ _ _ _ => exact absurd rfl hne
  | writeFailed p hr hp hf => exact .inr (.inr (.inl ⟨hp, rfl, p, rest, hi, hr, hf, rfl, rfl⟩))
  | sendByte p hr hp hf hready hidx =>
    obtain ⟨h7, hrx, h8⟩ := sendByte_changes_phase (setInputs rest s) hidx hne
    exact .inr (.inl ⟨hp, hrx, h7, h8, p, rest, hi, hr, hf, hready⟩)
  | takeByte p hr hp hv hc =>
    obtain ⟨h7, u, hu⟩ := offerByte_changes_phase (setInputs rest s) hne
    have h7 : s.rxCnt = 7#4 := h7
    rw [hu]
    exact .inr (.inr (.inr (.inl ⟨hp, closeExchange_idle u, closeExchange_resKind u, by rw [h7]; decide,
      .inl ⟨h7, hc, p, rest, hi, hr, hv⟩⟩)))
  | readFailed p hr hp _ hf =>
    exact .inr (.inr (.inr (.inr (.inl ⟨hp, rfl, rfl, p, rest, hi, hr, .inl ⟨hf, rfl⟩⟩))))
  | readTimeout p hr hp _ hf ht =>
    exact .inr (.inr (.inr (.inr (.inl ⟨hp, rfl, rfl, p, rest, hi, hr, .inr ⟨hf, ht, rfl⟩⟩))))
  | arrive b => exact absurd rfl hne
  | receive w =>
    rcases receiveFrame_cases (frameOfWord w) (setInputs rest s) with ⟨hp, h8, u, hu⟩ | ⟨-, hphase⟩
    · rw [hu]
      exact .inr (.inr (.inr (.inl ⟨hp, closeExchange_idle u, closeExchange_resKind u, h8, .inr ⟨w, rest, hi⟩⟩)))
    · exact absurd hphase.symm hne

/-- A valid result stays valid through every byte taken (R31). -/
theorem offerByte_resValid (s : State) (h : s.resValid = true) : (offerByte s).resValid = true := by
  rcases offerByte_cases s with he | ⟨-, b, rest, -, ⟨-, he⟩ | ⟨-, he⟩⟩ <;> rw [he]
  · exact h
  · exact (closeExchange_frame _).1
  · exact h

/-- Of the effects of a move, those that change the result register (R31, R40). -/
theorem MoveEffect.resultSame_or {s t : State} {m : Input} (he : MoveEffect s m t) :
    ResultSame s t ∨
    (∃ p, m = .edge p ∧ (p.rst = true ∨ (p.rst = false ∧
      ((s.phase = .idle ∧ (p.reqValid = true ∨ p.decClose = true)) ∨
       (s.phase = .tx ∧ p.txFail = true) ∨
       (s.phase = .rx ∧ p.rxValid = true ∧ s.rxChan ≠ [] ∧ s.rxCnt = 7#4) ∨
       (s.phase = .rx ∧ (p.rxValid = false ∨ s.rxChan = []) ∧ (p.rxFail = true ∨ p.rxTimeout = true)))))) ∨
    (∃ w, m = .response w ∧ s.phase = .rx ∧ s.rxCnt.toNat < 8 ∧ t.phase = .idle) := by
  cases he with
  | hold => exact .inl (.refl s)
  | rst p hr => exact .inr (.inl ⟨p, rfl, .inl hr⟩)
  | issue p hr hp hreq => exact .inr (.inl ⟨p, rfl, .inr ⟨hr, .inl ⟨hp, .inl hreq⟩⟩⟩)
  | closeStandalone p hr hp _ hc => exact .inr (.inl ⟨p, rfl, .inr ⟨hr, .inl ⟨hp, .inr hc⟩⟩⟩)
  | pushStandalone p _ _ _ _ _ => exact .inl ⟨rfl, rfl, rfl, rfl, rfl⟩
  | writeFailed p hr hp hf => exact .inr (.inl ⟨p, rfl, .inr ⟨hr, .inr (.inl ⟨hp, hf⟩)⟩⟩)
  | sendByte p _ _ _ _ _ => exact .inl (sendByte_resultSame s)
  | takeByte p hr hp hv hc =>
    by_cases h7 : s.rxCnt = 7#4
    · exact .inr (.inl ⟨p, rfl, .inr ⟨hr, .inr (.inr (.inl ⟨hp, hv, hc, h7⟩))⟩⟩)
    · exact .inl (offerByte_notLast s h7).1
  | readFailed p hr hp hv hf => exact .inr (.inl ⟨p, rfl, .inr ⟨hr, .inr (.inr (.inr ⟨hp, hv, .inl hf⟩))⟩⟩)
  | readTimeout p hr hp hv _ ht => exact .inr (.inl ⟨p, rfl, .inr ⟨hr, .inr (.inr (.inr ⟨hp, hv, .inr ht⟩))⟩⟩)
  | arrive b => exact .inl ⟨rfl, rfl, rfl, rfl, rfl⟩
  | receive w =>
    rcases receiveFrame_cases (frameOfWord w) s with ⟨hp, h8, u, hu⟩ | ⟨hsame, -⟩
    · exact .inr (.inr ⟨w, rfl, hp, h8, by rw [hu, closeExchange_idle]⟩)
    · exact .inl hsame

/-- A valid result is cleared only by a reset or an issue step (R31, R40). -/
theorem MoveEffect.clears_result {s t : State} {m : Input} (he : MoveEffect s m t) (hs : s.resValid = true)
    (ht : t.resValid = false) :
    ∃ p, m = .edge p ∧ (p.rst = true ∨ (s.phase = .idle ∧ p.reqValid = true)) := by
  have kept : t.resValid = true → ∃ p, m = .edge p ∧ (p.rst = true ∨ (s.phase = .idle ∧ p.reqValid = true)) := by
    intro h; rw [h] at ht; cases ht
  cases he with
  | rst p hr => exact ⟨p, rfl, .inl hr⟩
  | issue p _ hp hreq => exact ⟨p, rfl, .inr ⟨hp, hreq⟩⟩
  | hold => exact kept hs
  | closeStandalone p _ _ _ _ => exact kept (closeStandalone_resValid s)
  | pushStandalone p _ _ _ _ _ => exact kept hs
  | writeFailed p _ _ _ => exact kept rfl
  | sendByte p _ _ _ _ _ => exact kept ((sendByte_resultSame s).1.trans hs)
  | takeByte p _ _ _ _ => exact kept (offerByte_resValid s hs)
  | readFailed p _ _ _ _ => exact kept rfl
  | readTimeout p _ _ _ _ _ => exact kept rfl
  | arrive b => exact kept hs
  | receive w => exact kept (receiveFrame_keeps (fun u => u.resValid = true) offerByte_resValid _ s hs)

/-- Settles O46: the effects of a move that write the result register, and the two that clear it. -/
theorem resultStandsUntilTheNextResult : Obligations.ResultStandsUntilTheNextResult := by
  intro s t hs
  rcases step_moveEffect s t hs with rfl | ⟨m, rest, hi, he⟩
  · exact ⟨.inl (.refl t), fun h h' => by rw [h] at h'; cases h'⟩
  constructor
  · rcases he.resultSame_or with h | ⟨p, rfl, h⟩ | ⟨w, rfl, h⟩
    · exact .inl h
    · exact .inr (.inl ⟨p, rest, hi, h⟩)
    · exact .inr (.inr ⟨w, rest, hi, h⟩)
  · intro hv hv'
    obtain ⟨p, rfl, h⟩ := he.clears_result hv hv'
    exact ⟨p, rest, hi, h⟩

/-- Settles O55: the edge reaches the request port's arm of phase IDLE. -/
theorem stepRunsTheOfferedRequest : Obligations.StepRunsTheOfferedRequest := by
  intro s p rest hi hp hr hreq
  have hidle : (setInputs rest s).phase = .idle := hp
  rw [step_input s _ rest hi]
  simp only [takeInput, clockEdge, hr, hidle, edgeIdle, hreq, Bool.false_eq_true, if_false, if_true]
  rfl

/-! ### The outputs (O37, O58, O59, O60) -/

/-- Result data of a coherent register carries its operation value on the ports (R37, R38). -/
theorem opValueOfPort_eq (c : Byte) (d : ResData) (hu : d.u16 = joinBytes d.q1 d.q2)
    (hcls : d.ackClass = (classify d.q3).portCode)
    (hop : d.opKind = (interpretOk c ⟨d.cmdEcho, d.q1, d.q2, d.q3, d.chk, d.rsv⟩).portCode) :
    opValueOfPort d = some (interpretOk c ⟨d.cmdEcho, d.q1, d.q2, d.q3, d.chk, d.rsv⟩) := by
  have hack := ackOfPort_classify d.q3
  rcases interpretOk_cases c ⟨d.cmdEcho, d.q1, d.q2, d.q3, d.chk, d.rsv⟩ with e | e | e | e | e | e <;>
    rw [e] at hop ⊢ <;> simp [opValueOfPort, hop, OpValue.portCode, hcls, hack, hu, u16]

/-- Settles O37: `opResult` reads the value that coherent data carries. -/
theorem portsCarryTheOperationResult : Obligations.PortsCarryTheOperationResult := by
  intro s h hk ho
  have hv := opValueOfPort_eq s.txBuf[1] s.resData (h.ok_u16 hk) (h.ok_class hk) (h.ok_opKind hk ho)
  simp [opResult, hk, ho, hv]

theorem resultData_ok {s : State} (h : s.resKind = .ok) : resultData s = some s.resData := by
  simp [resultData, h]

theorem resultData_not_ok {s : State} (h : s.resKind ≠ .ok) : resultData s = none := by
  cases hk : s.resKind <;> simp_all [resultData]

/-- The ten outputs of the result data (R39). -/
def dataPorts : List OutPort :=
  [.resCmdEcho, .resQ1, .resQ2, .resQ3, .resChk, .resRsv, .resU16, .resAckClass, .resChkOk, .resOpKind]

theorem readPort_data_none {s : State} (h : s.resKind ≠ .ok) {port : OutPort} (hp : port ∈ dataPorts) :
    readPort port s = none := by
  fin_cases hp <;> simp [readPort, resultData_not_ok h]

/-- The outputs without a value (R39, U10). -/
theorem readPort_none {s : State} {port : OutPort} (h : readPort port s = none) :
    port ∈ dataPorts ∧ (s.resKind ≠ .ok ∨ (port = .resOpKind ∧ s.resOpValid = false)) := by
  by_cases hk : s.resKind = .ok
  · cases port <;> simp_all [readPort, resultData_ok hk, dataPorts]
  · cases port <;> simp_all [readPort, dataPorts]

/-- Settles O58: the only move without an effect is the read of an output that has no value. -/
theorem stepsStopOnlyAtAnOutputWithoutValue : Obligations.StepsStopOnlyAtAnOutputWithoutValue := by
  intro s
  rcases hi : s.inputs with _ | ⟨m, rest⟩
  · have hs : step s = .next s := by simp [step, takeNext, hi]
    rw [hs]
    exact ⟨nofun, nofun, nofun⟩
  rw [step_input s m rest hi]
  refine ⟨?_, ?_, ?_⟩
  · intro r hr
    rcases takeInput_moveEffect m (setInputs rest s) with ⟨t, ht, -⟩ | ⟨port, -, -, hf⟩
    · cases ht.symm.trans hr
    · cases hf.symm.trans hr
  · intro r hr
    rcases takeInput_moveEffect m (setInputs rest s) with ⟨t, ht, -⟩ | ⟨port, rfl, hnone, hf⟩
    · cases ht.symm.trans hr
    · cases hf.symm.trans hr
      obtain ⟨hmem, hwhy⟩ := readPort_none (s := s) hnone
      exact ⟨port, rest, rfl, rfl, hnone, hmem, hwhy⟩
  · intro port rest' v hcons hv
    cases hcons
    have hv' : readPort port (setInputs rest s) = some v := hv
    simp only [takeInput, sampleOutput, hv']
    rfl

/-- Settles O59: the data outputs read the result data, which has a value exactly for OK. -/
theorem dataOutputsHaveAValueExactlyWhenOk : Obligations.DataOutputsHaveAValueExactlyWhenOk := by
  intro s
  refine ⟨fun hk => ?_, fun hk port hp => readPort_data_none hk hp⟩
  simp [readPort, resultData_ok hk]


/-- Byte `k` of a packed frame stands in bits 63-8k..56-8k (R8). -/
theorem wordOfFrame_byte (f : Frame) (k : Nat) (hk : k < 8) :
    (wordOfFrame f).extractLsb' (56 - 8 * k) 8 = f[k] := by
  apply BitVec.eq_of_getLsbD_eq
  intro i hi
  have beyond : ∀ n, 8 ≤ n → ¬ i + n < 8 := by omega
  rw [BitVec.getLsbD_extractLsb', Nat.add_comm]
  unfold wordOfFrame
  interval_cases k <;> simp only [BitVec.getLsbD_append] <;> simp [hi, beyond]

/-- An output of one bit reads 1 exactly when the bit is set (R44). -/
theorem bitOutput_eq_one (b : Bool) : some ((BitVec.ofBool b).zeroExtend 64) = some 1#64 ↔ b = true := by
  cases b <;> decide

theorem bitOutput_eq_zero (b : Bool) : some ((BitVec.ofBool b).zeroExtend 64) = some 0#64 ↔ b = false := by
  cases b <;> decide

theorem bitOutput_eq_ite (b : Bool) :
    some ((BitVec.ofBool b).zeroExtend 64) = some (if b then 1#64 else 0#64) := by
  cases b <;> rfl

theorem busy_eq_true (s : State) : busy s = true ↔ s.phase ≠ .idle := by simp [busy]

theorem busy_eq_false (s : State) : busy s = false ↔ s.phase = .idle := by simp [busy]

theorem txValid_eq_true (s : State) : txValid s = true ↔ s.phase = .tx ∧ s.txIdx.toNat < 8 := by simp [txValid]

theorem readPort_decReady (s : State) : readPort .decReady s = some 1#64 ↔ s.phase = .idle :=
  (bitOutput_eq_one _).trans (by rw [Bool.not_eq_true', busy_eq_false])

theorem readPort_rxReady (s : State) : readPort .rxReady s = some 1#64 ↔ s.phase = .rx :=
  (bitOutput_eq_one _).trans beq_iff_eq

theorem readPort_txByte (s : State) (h : s.txIdx.toNat < 8) :
    readPort .txByte s = some (s.txBuf[s.txIdx.toNat].zeroExtend 64) := by
  simp [readPort, txByte, h]

/-- Settles O60: each output is read off the state. -/
theorem outputsFollowTheState : Obligations.OutputsFollowTheState := by
  intro s
  refine ⟨⟨(bitOutput_eq_zero _).trans (busy_eq_false s), (bitOutput_eq_one _).trans (busy_eq_true s), readPort_decReady s,
      readPort_rxReady s, (bitOutput_eq_one _).trans (txValid_eq_true s)⟩,
    ⟨⟨_, rfl, wordOfFrame_byte s.txBuf⟩, readPort_txByte s⟩,
    bitOutput_eq_ite s.resValid, bitOutput_eq_ite s.resOpValid, ?_, ?_, ?_, ?_, ?_, ?_, ?_, ?_⟩
  all_goals
    intro h
    rw [readPort, h]
    rfl

end Sys2Proof.Machine
end

section
/-!
PROOFS. The obligations about the two byte channels (20_memory.md R62, R63, R69): where a response waits, which eight bytes a
close step decodes, and which step sends a byte. First what the close step, the offered byte and the whole frame do to the
channels, then the obligations.
-/

namespace Sys2Proof.Machine

/-! ### A response that waits (O30) -/

/-- Settles O30: a response row receives its frame, which is not taken outside phase RX. -/
theorem responsesWaitOutsidePhaseRx : Obligations.ResponsesWaitOutsidePhaseRx := by
  intro i s hi hp
  rw [exec_response i hi s, receiveFrame_waits (encode i) s hp]
  rfl

/-! ### The eight bytes that are decoded (O31) -/

@[simp] theorem closeExchange_rxChan (s : State) : (closeExchange s).rxChan = s.rxChan := by
  rcases closeExchange_cases s with h | h <;> rw [h] <;> rfl

theorem closeExchange_senderSame (s : State) : SenderSame s (closeExchange s) := by
  obtain ⟨-, hinputs, hsent⟩ := closeExchange_frame s
  exact ⟨closeExchange_txBuf s, closeExchange_txIdx s, hsent, hinputs⟩

/-- The decode-level result after the close step of a full buffer is `Decode` of the buffer (R155, R167). -/
theorem decodeResult_close (s : State) (h : s.rxCnt = 8#4) :
    decodeResult (closeExchange s) = some (decodeBuf s.rxBuf.toList) := by
  rw [decodeBuf_frame]
  by_cases hg : s.rxBuf[0] = params.startByte ∧ s.rxBuf[7] = params.endByte
  · rw [closeExchange_good s ((bufferGood_iff s).2 ⟨h, hg⟩), if_pos hg]
    rfl
  · have hbad : bufferGood s = false :=
      Bool.eq_false_of_not_eq_true fun hb => hg ((bufferGood_iff s).1 hb).2
    rw [closeExchange_bad s hbad, if_neg hg]
    rfl

/-- Eight bytes off the front of a channel are a frame (R60). -/
theorem take_eight_eq_frame (bytes : List Byte) (h : 8 ≤ bytes.length) : ∃ g : Frame, bytes.take 8 = g.toList :=
  ⟨⟨(bytes.take 8).toArray, by simp [h]⟩, rfl⟩

/-- A whole frame that arrives at the start of phase RX closes the exchange with the first eight of all the bytes then waiting
and leaves the others in the channel (R69, R189, R190). -/
theorem receiveFrame_takes_first_eight (f : Frame) (s : State) (hp : s.phase = .rx) (hn : s.rxCnt = 0#4) :
    ∃ g : Frame, (s.rxChan ++ f.toList).take 8 = g.toList ∧
      receiveFrame f s = closeExchange (withRx g 8#4 ((s.rxChan ++ f.toList).drop 8) s) := by
  obtain ⟨g, hg⟩ := take_eight_eq_frame (s.rxChan ++ f.toList) (by simp)
  have hsplit : s.rxChan ++ f.toList = g.toList ++ (s.rxChan ++ f.toList).drop 8 := by
    rw [← hg, List.take_append_drop]
  exact ⟨g, hg, offerBytes_eight (setRxChan (s.rxChan ++ f.toList) s) g _ hp hn hsplit⟩

/-- Settles O31: the exchange is closed with the first eight of the bytes waiting, and the close step decodes those. -/
theorem staleBytesAreTakenFirst : Obligations.StaleBytesAreTakenFirst := by
  intro i s hi hp hn
  obtain ⟨g, hg, hclose⟩ := receiveFrame_takes_first_eight (encode i) s hp hn
  refine ⟨_, exec_response i hi s, ?_⟩
  rw [hclose, hg]
  exact ⟨closeExchange_idle _, closeExchange_senderSame _, decodeResult_close _ rfl, closeExchange_rxChan _⟩

/-! ### The bytes that are sent (O44) -/

@[simp] theorem closeStandalone_txSent (s : State) : (closeStandalone s).txSent = s.txSent := by
  rcases closeStandalone_cases s with h | h <;> rw [h] <;> rfl

@[simp] theorem offerByte_txSent (s : State) : (offerByte s).txSent = s.txSent := by
  rcases offerByte_cases s with h | ⟨-, b, rest, -, ⟨-, h⟩ | ⟨-, h⟩⟩ <;> rw [h]
  · exact (closeExchange_frame _).2.2
  · rfl

@[simp] theorem receiveFrame_txSent (f : Frame) (s : State) : (receiveFrame f s).txSent = s.txSent :=
  receiveFrame_keeps (fun u => u.txSent = s.txSent) (fun u h => (offerByte_txSent u).trans h) f s rfl

theorem sendByte_txSent (s : State) (h : s.txIdx.toNat < 8) :
    (sendByte s).txSent = s.txSent ++ [s.txBuf[s.txIdx.toNat]] := by
  rw [sendByte_enabled s h]

/-- Settles O44: of the effects of a move, only the TX byte step writes the TX channel. -/
theorem bytesAreSentOnlyInPhaseTx : Obligations.BytesAreSentOnlyInPhaseTx := by
  intro s t hs
  rcases step_moveEffect s t hs with rfl | ⟨m, rest, -, he⟩
  · exact .inl rfl
  cases he with
  | sendByte p _ hp _ _ hi => exact .inr ⟨hp, hi, sendByte_txSent (setInputs rest s) hi⟩
  | hold => exact .inl rfl
  | rst p _ => exact .inl rfl
  | issue p _ _ _ => exact .inl rfl
  | closeStandalone p _ _ _ _ => exact .inl (closeStandalone_txSent _)
  | pushStandalone p _ _ _ _ _ => exact .inl rfl
  | writeFailed p _ _ _ => exact .inl rfl
  | takeByte p _ _ _ _ => exact .inl (offerByte_txSent _)
  | readFailed p _ _ _ _ => exact .inl rfl
  | readTimeout p _ _ _ _ _ => exact .inl rfl
  | arrive b => exact .inl rfl
  | receive w => exact .inl (receiveFrame_txSent _ _)

end Sys2Proof.Machine
end

section
/-!
PROOFS. Decode and encode agree (30_encoding.md R91 to R93). First what a frame decodes to, and which row four request
bytes or six response bytes are, as one equivalence per direction; then the two obligations.
-/

namespace Sys2Proof.Machine

/-! ### Decoding a frame -/

/-- The four Encode inputs that stand at offsets 1 to 4 of a frame (R91). -/
def requestOf (f : Frame) : Request := ⟨f[1], f[2], f[3], f[4]⟩

/-- The fixed bytes of a request frame (R91): both sentinels and the reserved byte. -/
def RequestEnvelope (f : Frame) : Prop :=
  f[0] = params.startByte ∧ f[7] = params.endByte ∧ f[6] = params.reserved

/-- The fields of a form Z row under another checksum than that row's, which decode to RAW (log entry 9). -/
def FormZWrongChecksum (f : Frame) : Prop :=
  checksumMasked (requestInstr f[1] f[2] f[3] f[4]) = false ∧ requestChecksum f = false

theorem decode_request_frame (f : Frame) : decode .request f.toList = decodeRequest f := by
  rw [frame_toList, decode, ← frame_eta]

theorem decode_response_frame (f : Frame) : decode .response f.toList = decodeResponse f := by
  rw [frame_toList, decode, ← frame_eta]

/-- What a request frame decodes to: it needs the fixed bytes, and only a form Z row minds the checksum (R93). -/
theorem decodeRequest_eq_ok_iff (f : Frame) (i : Instr) :
    decodeRequest f = .ok i ↔ RequestEnvelope f ∧
      ((¬ FormZWrongChecksum f ∧ requestInstr f[1] f[2] f[3] f[4] = i) ∨
       (FormZWrongChecksum f ∧ Instr.raw f[1] f[2] f[3] f[4] = i)) := by
  unfold decodeRequest RequestEnvelope
  split
  · next h0 => simp [h0]
  split
  · next h7 => simp [h7]
  split
  · next h6 => simp [h6]
  next h0 h7 h6 =>
  rw [not_not] at h0 h7 h6
  split
  · next hc =>
    have hz : ¬ FormZWrongChecksum f := by rintro ⟨hm, hr⟩; simp [hm, hr] at hc
    simp [h0, h7, h6, hz]
  · next hc =>
    have hz : FormZWrongChecksum f := by simpa [FormZWrongChecksum] using hc
    simp [h0, h7, h6, hz]

theorem decodeResponse_eq_ok_iff (f : Frame) (i : Instr) :
    decodeResponse f = .ok i ↔
      (f[0] = params.startByte ∧ f[7] = params.endByte) ∧ responseInstr (captured f) = i := by
  by_cases h0 : f[0] = params.startByte <;> by_cases h7 : f[7] = params.endByte <;> simp [decodeResponse, h0, h7]

/-! ### The row of four request bytes -/

theorem namedRequest_eq_false_iff (c p1 p2 p3 : Byte) :
    namedRequest c p1 p2 p3 = false ↔ requestInstr c p1 p2 p3 = .raw c p1 p2 p3 := by
  unfold requestInstr namedRequest
  repeat' split
  all_goals simp_all
  -- the last branch is left, where no named row's guard holds
  constructor <;> rintro ((h | h) | h) <;> simp_all

theorem requestInstr_wellFormed (c p1 p2 p3 : Byte) : (requestInstr c p1 p2 p3).wellFormed = true := by
  by_cases hraw : requestInstr c p1 p2 p3 = .raw c p1 p2 p3
  · rw [hraw, Instr.wellFormed, (namedRequest_eq_false_iff c p1 p2 p3).2 hraw]
    rfl
  · unfold requestInstr at hraw ⊢
    repeat' split
    all_goals simp_all [Instr.wellFormed]

/-- A well-formed request row is the row of the four bytes `BuildReq` gives it (R99, R100). -/
theorem requestInstr_of_buildReq (i : Instr) (hwf : i.wellFormed = true) (r : Request) (h : buildReq i = some r) :
    requestInstr r.cmd r.p1 r.p2 r.p3 = i := by
  cases i with
  | raw c p1 p2 p3 =>
    cases h
    exact (namedRequest_eq_false_iff c p1 p2 p3).1 (by simpa [Instr.wellFormed] using hwf)
  | enroll1 uid perm | enroll2 uid perm | enroll3 uid perm =>
    cases h; simp [requestInstr, formUP, params, joinBytes_high_low]
  | deluser uid | qperm uid | verify11 uid =>
    cases h; simp [requestInstr, formU, params, joinBytes_high_low]
  | delall | count | verify1n => cases h; rfl
  | _ => cases h

/-- The rows whose checksum is fixed are those of form Z (R93). -/
theorem checksumMasked_requestInstr_eq_false_iff (c p1 p2 p3 : Byte) :
    checksumMasked (requestInstr c p1 p2 p3) = false ↔
      c ∈ [0x05#8, 0x09#8, 0x0C#8] ∧ p1 = 0x00#8 ∧ p2 = 0x00#8 ∧ p3 = 0x00#8 := by
  unfold requestInstr
  repeat' split
  all_goals simp_all [checksumMasked, params]
  rintro (h | h | h) <;> simp_all

theorem buildReq_isSome_iff (i : Instr) : (∃ r, buildReq i = some r) ↔ i.direction = .request := by
  cases i <;> simp [buildReq, Instr.direction]

theorem encode_request (i : Instr) (r : Request) (h : buildReq i = some r) : encode i = r.frame := by
  cases i <;> cases h <;> rfl

/-! ### The row of six response bytes -/

theorem responseFrame_inj (e h l q k r e' h' l' q' k' r' : Byte) :
    responseFrame e h l q k r = responseFrame e' h' l' q' k' r' ↔
      e = e' ∧ h = h' ∧ l = l' ∧ q = q' ∧ k = k' ∧ r = r' := by
  simp [responseFrame]

theorem classify_eq_unknown (b : Byte) (h : namedAck b = false) : classify b = .unknown b := by
  simp only [namedAck, Bool.or_eq_false_iff, beq_eq_false_iff_ne] at h
  simp [classify, h]

theorem classify_unknown_namedAck (b b' : Byte) (h : classify b = .unknown b') : namedAck b' = false := by
  unfold classify at h
  repeat' split at h
  all_goals simp_all [namedAck]

theorem responseInstr_wellFormed (d : Decoded) : (responseInstr d).wellFormed = true := by
  unfold responseInstr
  split
  case h_8 b hb => simp [Instr.wellFormed, classify_unknown_namedAck _ b hb]
  all_goals rfl

/-- A response row is the row of the six inner bytes of its frame (R101). -/
theorem responseInstr_of_encode (d : Decoded) (i : Instr) (hwf : i.wellFormed = true) (hdir : i.direction = .response)
    (h : encode i = responseFrame d.cmdEcho d.q1 d.q2 d.q3 d.chk d.rsv) : responseInstr d = i := by
  obtain ⟨de, dh, dl, dq, dk, dr⟩ := d
  cases i with
  | ackUnknown e h l q k r =>
    obtain ⟨rfl, rfl, rfl, rfl, rfl, rfl⟩ := (responseFrame_inj ..).1 h
    simp [responseInstr, classify_eq_unknown q (by simpa [Instr.wellFormed] using hwf)]
  | ackSuccess | ackFail | ackDatabaseFull | ackNoUser | ackUserIdOccupied | ackFingerprintOccupied | ackTimeout =>
    obtain ⟨rfl, rfl, rfl, rfl, rfl, rfl⟩ := (responseFrame_inj ..).1 h
    simp [responseInstr, classify_params]
  | _ => cases hdir

theorem encode_response (i : Instr) (hdir : i.direction = .response) :
    encode i = responseFrame (encode i)[1] (encode i)[2] (encode i)[3] (encode i)[4] (encode i)[5] (encode i)[6] := by
  cases i with
  | ackSuccess | ackFail | ackDatabaseFull | ackNoUser | ackUserIdOccupied | ackFingerprintOccupied | ackTimeout
  | ackUnknown => rfl
  | _ => cases hdir

/-! ### Decode and encode agree (O1, O2) -/

/-- A response frame decodes to the one well-formed response row that has it (R92, R93). -/
theorem decodeResponse_eq_ok_iff_encode (f : Frame) (i : Instr) :
    decodeResponse f = .ok i ↔ i.wellFormed = true ∧ i.direction = .response ∧ encode i = f := by
  constructor
  · intro h
    obtain ⟨-, hrow⟩ := (decodeResponse_eq_ok_iff f i).1 h
    exact ⟨hrow ▸ responseInstr_wellFormed _, decodeResponse_row f i h⟩
  · rintro ⟨hwf, hdir, rfl⟩
    have hframe := encode_response i hdir
    refine (decodeResponse_eq_ok_iff _ _).2 ⟨?_, responseInstr_of_encode (captured (encode i)) i hwf hdir hframe⟩
    rw [hframe]
    exact ⟨rfl, rfl⟩

/-- A request frame decodes to the one well-formed request row that has its fields, under any checksum the row masks. -/
theorem decodeRequest_eq_ok_iff_buildReq (f : Frame) (i : Instr) (hwf : i.wellFormed = true) :
    decodeRequest f = .ok i ↔ RequestEnvelope f ∧ buildReq i = some (requestOf f) ∧
      (checksumMasked i = true ∨ requestChecksum f = true) := by
  rw [decodeRequest_eq_ok_iff, and_congr_right_iff]
  intro _
  constructor
  · rintro (⟨hz, rfl⟩ | ⟨⟨hm, -⟩, rfl⟩)
    · refine ⟨buildReq_requestInstr .., ?_⟩
      simpa [FormZWrongChecksum, or_iff_not_imp_left] using hz
    · exact ⟨rfl, .inl rfl⟩
  · rintro ⟨hreq, hsum⟩
    have hrow : requestInstr f[1] f[2] f[3] f[4] = i := requestInstr_of_buildReq i hwf _ hreq
    refine .inl ⟨?_, hrow⟩
    rintro ⟨hm, hr⟩
    rw [hrow] at hm
    simp [hm, hr] at hsum

theorem decodeRequest_direction (f : Frame) (i : Instr) (h : decodeRequest f = .ok i) : i.direction = .request := by
  obtain ⟨-, ⟨-, rfl⟩ | ⟨-, rfl⟩⟩ := (decodeRequest_eq_ok_iff f i).1 h
  · exact (buildReq_isSome_iff _).1 ⟨_, buildReq_requestInstr ..⟩
  · rfl

theorem requestChecksum_iff (f : Frame) : requestChecksum f = true ↔ f[5] = f[1] ^^^ f[2] ^^^ f[3] ^^^ f[4] := by
  rw [requestChecksum, beq_iff_eq, chk_eq_xor]

/-- A frame with the fixed bytes and the checksum of R91 is the frame of its four inputs. -/
theorem frame_requestOf (f : Frame) (he : RequestEnvelope f) (hc : requestChecksum f = true) :
    (requestOf f).frame = f := by
  obtain ⟨h0, h7, h6⟩ := he
  have h5 : f[5] = chk f[1] f[2] f[3] f[4] := beq_iff_eq.1 hc
  conv => rhs; rw [frame_eta f, h0, h5, h6, h7]
  rfl

/-- The frames the last clause of O2 singles out: with zero parameters R91's checksum is the command byte. -/
theorem formZWrongChecksum_iff (f : Frame) : FormZWrongChecksum f ↔
    f[1] ∈ [0x05#8, 0x09#8, 0x0C#8] ∧ f[2] = 0x00#8 ∧ f[3] = 0x00#8 ∧ f[4] = 0x00#8 ∧ f[5] ≠ f[1] := by
  rw [FormZWrongChecksum, checksumMasked_requestInstr_eq_false_iff, Bool.eq_false_iff, Ne, requestChecksum_iff]
  constructor
  · rintro ⟨⟨hc, h2, h3, h4⟩, h5⟩
    exact ⟨hc, h2, h3, h4, by simpa [h2, h3, h4] using h5⟩
  · rintro ⟨hc, h2, h3, h4, h5⟩
    exact ⟨⟨hc, h2, h3, h4⟩, by simpa [h2, h3, h4] using h5⟩

/-- Settles O1: a request row is the row of its four inputs, a response row the row of its six inner bytes. -/
theorem decodeOfEncodeIsTheInstruction : Obligations.DecodeOfEncodeIsTheInstruction := by
  intro i hwf
  cases hdir : i.direction with
  | request =>
    obtain ⟨r, hr⟩ := (buildReq_isSome_iff i).2 hdir
    rw [decode_request_frame, encode_request i r hr]
    exact (decodeRequest_eq_ok_iff_buildReq _ i hwf).2 ⟨⟨rfl, rfl, rfl⟩, hr, .inr (beq_self_eq_true _)⟩
  | response =>
    rw [decode_response_frame]
    exact (decodeResponse_eq_ok_iff_encode _ i).2 ⟨hwf, hdir, rfl⟩

/-- Settles O2: a response row has the frame it was decoded from; a request row has it up to the checksum byte. -/
theorem encodeOfDecodeIsTheBytes : Obligations.EncodeOfDecodeIsTheBytes := by
  intro dir f i h
  cases dir with
  | response =>
    rw [decode_response_frame] at h
    obtain ⟨hwf, hdir, henc⟩ := (decodeResponse_eq_ok_iff_encode f i).1 h
    exact ⟨hdir, fun _ => ⟨hwf, henc⟩, by simpa using hwf⟩
  | request =>
    rw [decode_request_frame] at h
    refine ⟨decodeRequest_direction f i h, ?_⟩
    simp only [true_implies, ← requestChecksum_iff]
    obtain ⟨he, ⟨hz, rfl⟩ | ⟨hz, rfl⟩⟩ := (decodeRequest_eq_ok_iff f i).1 h
    · have hwf := requestInstr_wellFormed f[1] f[2] f[3] f[4]
      refine ⟨fun hc => ⟨hwf, ?_⟩, by rwa [if_neg fun hf => hz ((formZWrongChecksum_iff f).2 hf.2)]⟩
      rw [encode_request _ _ (buildReq_requestInstr ..)]
      exact frame_requestOf f he hc
    · have hf := (formZWrongChecksum_iff f).1 hz
      have ⟨_, h2, h3, h4, _⟩ := hf
      exact ⟨fun hc => by simp [hz.2] at hc, by rw [if_pos ⟨trivial, hf⟩, h2, h3, h4]⟩

end Sys2Proof.Machine
end

section
/-!
PROOFS. The table's match and mask (30_encoding.md R93, R99, R101), where a user id stands in the frame (R94), and which
instruction a table word runs. First what a mask keeps of a word, byte by byte, then each form's row, then the obligations.
-/

namespace Sys2Proof.Machine

/-! ### Match and mask, byte by byte (O3, O4) -/

theorem frameOfWord_byte (w : FrameWord) (k : Nat) (hk : k < 8) :
    (frameOfWord w)[k] = w.extractLsb' (56 - 8 * k) 8 := by
  match k, hk with
  | 0, _ | 1, _ | 2, _ | 3, _ | 4, _ | 5, _ | 6, _ | 7, _ => rfl

theorem frameOfWord_wordOfFrame (f : Frame) : frameOfWord (wordOfFrame f) = f := by
  ext k hk
  rw [frameOfWord_byte _ k hk, wordOfFrame_byte f k hk]

/-- A word is its eight bytes (R8). -/
theorem frameOfWord_inj {v w : FrameWord} : frameOfWord v = frameOfWord w ↔ v = w := by
  refine ⟨fun h => BitVec.eq_of_getLsbD_eq fun i hi => ?_, fun h => h ▸ rfl⟩
  have hbyte := congrArg (fun f : Frame => f[7 - i / 8].getLsbD (i % 8)) h
  simpa [frameOfWord_byte, Nat.mod_lt, show 56 - 8 * (7 - i / 8) + i % 8 = i by omega] using hbyte

theorem frame_eq_iff (f g : Frame) : f = g ↔
    f[0] = g[0] ∧ f[1] = g[1] ∧ f[2] = g[2] ∧ f[3] = g[3] ∧ f[4] = g[4] ∧ f[5] = g[5] ∧ f[6] = g[6] ∧ f[7] = g[7] := by
  refine ⟨fun h => h ▸ ⟨rfl, rfl, rfl, rfl, rfl, rfl, rfl, rfl⟩, ?_⟩
  rintro ⟨h0, h1, h2, h3, h4, h5, h6, h7⟩
  rw [frame_eta f, h0, h1, h2, h3, h4, h5, h6, h7, ← frame_eta]

/-- A mask is applied to each byte alone, so a match is eight matches of bytes (R93). -/
theorem and_eq_iff_bytes (w : FrameWord) (mask m : Frame) : w &&& wordOfFrame mask = wordOfFrame m ↔
    (frameOfWord w)[0] &&& mask[0] = m[0] ∧ (frameOfWord w)[1] &&& mask[1] = m[1] ∧
    (frameOfWord w)[2] &&& mask[2] = m[2] ∧ (frameOfWord w)[3] &&& mask[3] = m[3] ∧
    (frameOfWord w)[4] &&& mask[4] = m[4] ∧ (frameOfWord w)[5] &&& mask[5] = m[5] ∧
    (frameOfWord w)[6] &&& mask[6] = m[6] ∧ (frameOfWord w)[7] &&& mask[7] = m[7] := by
  have hand : ∀ (k : Nat) (hk : k < 8), (frameOfWord (w &&& wordOfFrame mask))[k] = (frameOfWord w)[k] &&& mask[k] := by
    intro k hk
    rw [frameOfWord_byte _ k hk, BitVec.extractLsb'_and, wordOfFrame_byte mask k hk, frameOfWord_byte _ k hk]
  rw [← frameOfWord_inj, frameOfWord_wordOfFrame, frame_eq_iff]
  simp only [hand]

/-- A byte of ones masks nothing out. -/
theorem and_ones (b : Byte) : b &&& 0xFF#8 = b := BitVec.and_allOnes

/-- The mask of form UP (R93): command, reserved byte and sentinels. -/
theorem and_maskUP_eq_iff (w : FrameWord) (cmd : Byte) :
    w &&& 0xFFFF00000000FFFF#64 = wordOfFrame #v[0xF5#8, cmd, 0#8, 0#8, 0#8, 0#8, 0#8, 0xF5#8] ↔
      RequestEnvelope (frameOfWord w) ∧ (frameOfWord w)[1] = cmd := by
  rw [show 0xFFFF00000000FFFF#64 = wordOfFrame #v[0xFF#8, 0xFF#8, 0#8, 0#8, 0#8, 0#8, 0xFF#8, 0xFF#8] by decide,
    and_eq_iff_bytes]
  simp [and_ones, RequestEnvelope, params, and_comm, and_left_comm]

/-- The mask of form U (R93): that of form UP and the third parameter. -/
theorem and_maskU_eq_iff (w : FrameWord) (cmd : Byte) :
    w &&& 0xFFFF0000FF00FFFF#64 = wordOfFrame #v[0xF5#8, cmd, 0#8, 0#8, 0#8, 0#8, 0#8, 0xF5#8] ↔
      RequestEnvelope (frameOfWord w) ∧ (frameOfWord w)[1] = cmd ∧ (frameOfWord w)[4] = 0#8 := by
  rw [show 0xFFFF0000FF00FFFF#64 = wordOfFrame #v[0xFF#8, 0xFF#8, 0#8, 0#8, 0xFF#8, 0#8, 0xFF#8, 0xFF#8] by decide,
    and_eq_iff_bytes]
  simp [and_ones, RequestEnvelope, params, and_assoc, and_comm, and_left_comm]

/-- The mask of RAW (R93): reserved byte and sentinels. -/
theorem and_maskRaw_eq_iff (w : FrameWord) :
    w &&& 0xFF0000000000FFFF#64 = 0xF5000000000000F5#64 ↔ RequestEnvelope (frameOfWord w) := by
  rw [show 0xFF0000000000FFFF#64 = wordOfFrame #v[0xFF#8, 0#8, 0#8, 0#8, 0#8, 0#8, 0xFF#8, 0xFF#8] by decide,
    show 0xF5000000000000F5#64 = wordOfFrame #v[0xF5#8, 0#8, 0#8, 0#8, 0#8, 0#8, 0#8, 0xF5#8] by decide,
    and_eq_iff_bytes]
  simp [and_ones, RequestEnvelope, params, and_comm]

/-- The mask of a named acknowledgment (R93, R101): byte 4 and the sentinels. -/
theorem and_maskAck_eq_iff (w : FrameWord) (code : Byte) :
    w &&& 0xFF000000FF0000FF#64 = wordOfFrame #v[0xF5#8, 0#8, 0#8, 0#8, code, 0#8, 0#8, 0xF5#8] ↔
      ((frameOfWord w)[0] = params.startByte ∧ (frameOfWord w)[7] = params.endByte) ∧ (frameOfWord w)[4] = code := by
  rw [show 0xFF000000FF0000FF#64 = wordOfFrame #v[0xFF#8, 0#8, 0#8, 0#8, 0xFF#8, 0#8, 0#8, 0xFF#8] by decide,
    and_eq_iff_bytes]
  simp [and_ones, params, and_comm, and_left_comm]

/-- The mask of a response (R92): the sentinels. -/
theorem and_maskSentinels_eq_iff (w : FrameWord) :
    w &&& 0xFF000000000000FF#64 = 0xF5000000000000F5#64 ↔
      (frameOfWord w)[0] = params.startByte ∧ (frameOfWord w)[7] = params.endByte := by
  rw [show 0xFF000000000000FF#64 = wordOfFrame #v[0xFF#8, 0#8, 0#8, 0#8, 0#8, 0#8, 0#8, 0xFF#8] by decide,
    show 0xF5000000000000F5#64 = wordOfFrame #v[0xF5#8, 0#8, 0#8, 0#8, 0#8, 0#8, 0#8, 0xF5#8] by decide,
    and_eq_iff_bytes]
  simp [and_ones, params]

/-! ### The request rows (O3) -/

theorem exists_formUP_eq_iff (cmd : Byte) (r : Request) : (∃ uid perm, formUP cmd uid perm = r) ↔ r.cmd = cmd := by
  constructor
  · rintro ⟨uid, perm, rfl⟩
    rfl
  · rintro rfl
    exact ⟨joinBytes r.p1 r.p2, r.p3, by rw [formUP, highByte_joinBytes, lowByte_joinBytes]⟩

theorem exists_formU_eq_iff (cmd : Byte) (r : Request) : (∃ uid, formU cmd uid = r) ↔ r.cmd = cmd ∧ r.p3 = 0#8 := by
  constructor
  · rintro ⟨uid, rfl⟩
    exact ⟨rfl, rfl⟩
  · rintro ⟨rfl, h3⟩
    exact ⟨joinBytes r.p1 r.p2, by rw [formU, highByte_joinBytes, lowByte_joinBytes, ← h3]⟩

/-- A row whose checksum byte is masked decodes from the fixed bytes and its four inputs. -/
theorem decodeRequest_masked_iff (f : Frame) (i : Instr) (r : Request) (hwf : i.wellFormed = true)
    (hmask : checksumMasked i = true) (hreq : buildReq i = some r) :
    decodeRequest f = .ok i ↔ RequestEnvelope f ∧ r = requestOf f := by
  simp [decodeRequest_eq_ok_iff_buildReq f i hwf, hmask, hreq]

/-- A row of form UP is recognised by its match under that form's mask. -/
theorem decodeRequest_formUP_iff (row : Half → Byte → Instr) (cmd : Byte)
    (hrow : ∀ uid perm, (row uid perm).wellFormed = true ∧ checksumMasked (row uid perm) = true ∧
      buildReq (row uid perm) = some (formUP cmd uid perm)) (w : FrameWord) :
    (∃ uid perm, decodeRequest (frameOfWord w) = .ok (row uid perm)) ↔
      w &&& 0xFFFF00000000FFFF#64 = wordOfFrame #v[0xF5#8, cmd, 0#8, 0#8, 0#8, 0#8, 0#8, 0xF5#8] := by
  have hdec : ∀ uid perm, decodeRequest (frameOfWord w) = .ok (row uid perm) ↔
      RequestEnvelope (frameOfWord w) ∧ formUP cmd uid perm = requestOf (frameOfWord w) := fun uid perm =>
    have ⟨hwf, hmask, hreq⟩ := hrow uid perm
    decodeRequest_masked_iff _ _ _ hwf hmask hreq
  simp only [hdec, exists_and_left, exists_formUP_eq_iff, and_maskUP_eq_iff, requestOf]

/-- A row of form U is recognised by its match under that form's mask. -/
theorem decodeRequest_formU_iff (row : Half → Instr) (cmd : Byte)
    (hrow : ∀ uid, (row uid).wellFormed = true ∧ checksumMasked (row uid) = true ∧
      buildReq (row uid) = some (formU cmd uid)) (w : FrameWord) :
    (∃ uid, decodeRequest (frameOfWord w) = .ok (row uid)) ↔
      w &&& 0xFFFF0000FF00FFFF#64 = wordOfFrame #v[0xF5#8, cmd, 0#8, 0#8, 0#8, 0#8, 0#8, 0xF5#8] := by
  have hdec : ∀ uid, decodeRequest (frameOfWord w) = .ok (row uid) ↔
      RequestEnvelope (frameOfWord w) ∧ formU cmd uid = requestOf (frameOfWord w) := fun uid =>
    have ⟨hwf, hmask, hreq⟩ := hrow uid
    decodeRequest_masked_iff _ _ _ hwf hmask hreq
  simp only [hdec, exists_and_left, exists_formU_eq_iff, and_maskU_eq_iff, requestOf]

/-- A row without variable bytes is recognised by its one word. -/
theorem decodeRequest_fixed_iff (i : Instr) (r : Request) (hwf : i.wellFormed = true) (hmask : checksumMasked i = false)
    (hreq : buildReq i = some r) (w : FrameWord) :
    decodeRequest (frameOfWord w) = .ok i ↔ w = wordOfFrame r.frame := by
  rw [decodeRequest_eq_ok_iff_buildReq _ i hwf, hmask, hreq, ← frameOfWord_inj, frameOfWord_wordOfFrame]
  constructor
  · rintro ⟨henv, hr, hm | hsum⟩
    · cases hm
    · cases hr
      exact (frame_requestOf _ henv hsum).symm
  · intro hf
    rw [hf]
    exact ⟨⟨rfl, rfl, rfl⟩, rfl, .inr (beq_self_eq_true _)⟩

/-- Some request row is recognised by RAW's mask. -/
theorem exists_decodeRequest_iff (w : FrameWord) :
    (∃ i, decodeRequest (frameOfWord w) = .ok i) ↔ w &&& 0xFF0000000000FFFF#64 = 0xF5000000000000F5#64 := by
  rw [and_maskRaw_eq_iff]
  constructor
  · rintro ⟨i, h⟩
    exact ((decodeRequest_eq_ok_iff _ i).1 h).1
  · intro henv
    by_cases hz : FormZWrongChecksum (frameOfWord w)
    · exact ⟨_, (decodeRequest_eq_ok_iff _ _).2 ⟨henv, .inr ⟨hz, rfl⟩⟩⟩
    · exact ⟨_, (decodeRequest_eq_ok_iff _ _).2 ⟨henv, .inl ⟨hz, rfl⟩⟩⟩

/-- RAW is the row of what decodes to none of the nine named rows, here in the order of their forms. -/
theorem decodeRequest_raw_iff (f : Frame) :
    (∃ c p1 p2 p3, decodeRequest f = .ok (.raw c p1 p2 p3)) ↔ (∃ i, decodeRequest f = .ok i) ∧
      ((¬ ∃ uid perm, decodeRequest f = .ok (.enroll1 uid perm)) ∧
        (¬ ∃ uid perm, decodeRequest f = .ok (.enroll2 uid perm)) ∧
        ¬ ∃ uid perm, decodeRequest f = .ok (.enroll3 uid perm)) ∧
      ((¬ ∃ uid, decodeRequest f = .ok (.deluser uid)) ∧ (¬ ∃ uid, decodeRequest f = .ok (.qperm uid)) ∧
        ¬ ∃ uid, decodeRequest f = .ok (.verify11 uid)) ∧
      (decodeRequest f ≠ .ok .delall ∧ decodeRequest f ≠ .ok .count ∧ decodeRequest f ≠ .ok .verify1n) := by
  constructor
  · rintro ⟨c, p1, p2, p3, h⟩
    simp [h]
  · rintro ⟨⟨i, h⟩, ⟨h1, h2, h3⟩, ⟨h4, h5, h6⟩, h7, h8, h9⟩
    have hdir := decodeRequest_direction f i h
    cases i with
    | raw c p1 p2 p3 => exact ⟨c, p1, p2, p3, h⟩
    | enroll1 uid perm => exact absurd ⟨uid, perm, h⟩ h1
    | enroll2 uid perm => exact absurd ⟨uid, perm, h⟩ h2
    | enroll3 uid perm => exact absurd ⟨uid, perm, h⟩ h3
    | deluser uid => exact absurd ⟨uid, h⟩ h4
    | qperm uid => exact absurd ⟨uid, h⟩ h5
    | verify11 uid => exact absurd ⟨uid, h⟩ h6
    | delall => exact absurd h h7
    | count => exact absurd h h8
    | verify1n => exact absurd h h9
    | _ => cases hdir

/-- Settles O3: each form's mask keeps the bytes the form fixes, and RAW is what is left of the frames that decode. -/
theorem requestsDecodeByMatchAndMask : Obligations.RequestsDecodeByMatchAndMask := by
  intro w
  have hEnroll1 := decodeRequest_formUP_iff .enroll1 0x01#8 (fun _ _ => ⟨rfl, rfl, rfl⟩) w
  have hEnroll2 := decodeRequest_formUP_iff .enroll2 0x02#8 (fun _ _ => ⟨rfl, rfl, rfl⟩) w
  have hEnroll3 := decodeRequest_formUP_iff .enroll3 0x03#8 (fun _ _ => ⟨rfl, rfl, rfl⟩) w
  have hDeluser := decodeRequest_formU_iff .deluser 0x04#8 (fun _ => ⟨rfl, rfl, rfl⟩) w
  have hQperm := decodeRequest_formU_iff .qperm 0x0A#8 (fun _ => ⟨rfl, rfl, rfl⟩) w
  have hVerify11 := decodeRequest_formU_iff .verify11 0x0B#8 (fun _ => ⟨rfl, rfl, rfl⟩) w
  have hDelall := decodeRequest_fixed_iff .delall (formZ 0x05#8) rfl rfl rfl w
  have hCount := decodeRequest_fixed_iff .count (formZ 0x09#8) rfl rfl rfl w
  have hVerify1n := decodeRequest_fixed_iff .verify1n (formZ 0x0C#8) rfl rfl rfl w
  refine ⟨hEnroll1, hEnroll2, hEnroll3, hDeluser, hDelall, hCount, hQperm, hVerify11, hVerify1n, ?_,
    exists_decodeRequest_iff w⟩
  simp only [decodeRequest_raw_iff, exists_decodeRequest_iff, hEnroll1, hEnroll2, hEnroll3, hDeluser, hQperm, hVerify11,
    ne_eq, hDelall, hCount, hVerify1n, List.mem_cons, List.not_mem_nil, or_false, forall_eq_or_imp, forall_eq]
  rfl

/-! ### The acknowledgment rows (O4) -/

/-- A named acknowledgment row is recognised by its match under the mask of its rows. -/
theorem decodeResponse_named_iff (row : Byte → Byte → Byte → Byte → Byte → Instr) (code : Byte)
    (hrow : ∀ e h l k r, (row e h l k r).wellFormed = true ∧ (row e h l k r).direction = .response ∧
      encode (row e h l k r) = responseFrame e h l code k r) (w : FrameWord) :
    (∃ e h l k r, decodeResponse (frameOfWord w) = .ok (row e h l k r)) ↔
      w &&& 0xFF000000FF0000FF#64 = wordOfFrame #v[0xF5#8, 0#8, 0#8, 0#8, code, 0#8, 0#8, 0xF5#8] := by
  rw [and_maskAck_eq_iff]
  constructor
  · rintro ⟨e, h, l, k, r, hdec⟩
    obtain ⟨-, -, henc⟩ := (decodeResponse_eq_ok_iff_encode _ _).1 hdec
    obtain ⟨-, -, hframe⟩ := hrow e h l k r
    rw [← henc, hframe]
    exact ⟨⟨rfl, rfl⟩, rfl⟩
  · generalize frameOfWord w = f
    rintro ⟨⟨h0, h7⟩, h4⟩
    obtain ⟨hwf, hdir, hframe⟩ := hrow f[1] f[2] f[3] f[5] f[6]
    refine ⟨_, _, _, _, _, (decodeResponse_eq_ok_iff_encode _ _).2 ⟨hwf, hdir, ?_⟩⟩
    rw [hframe, responseFrame, ← h0, ← h7, ← h4, ← frame_eta]

/-- Settles O4: byte 4 and the sentinels decide, each named row by its own code. -/
theorem acknowledgmentsDecodeByMatchAndMask : Obligations.AcknowledgmentsDecodeByMatchAndMask := by
  intro w
  refine ⟨decodeResponse_named_iff .ackSuccess 0x00#8 (fun _ _ _ _ _ => ⟨rfl, rfl, rfl⟩) w,
    decodeResponse_named_iff .ackFail 0x01#8 (fun _ _ _ _ _ => ⟨rfl, rfl, rfl⟩) w,
    decodeResponse_named_iff .ackDatabaseFull 0x04#8 (fun _ _ _ _ _ => ⟨rfl, rfl, rfl⟩) w,
    decodeResponse_named_iff .ackNoUser 0x05#8 (fun _ _ _ _ _ => ⟨rfl, rfl, rfl⟩) w,
    decodeResponse_named_iff .ackUserIdOccupied 0x06#8 (fun _ _ _ _ _ => ⟨rfl, rfl, rfl⟩) w,
    decodeResponse_named_iff .ackFingerprintOccupied 0x07#8 (fun _ _ _ _ _ => ⟨rfl, rfl, rfl⟩) w,
    decodeResponse_named_iff .ackTimeout 0x08#8 (fun _ _ _ _ _ => ⟨rfl, rfl, rfl⟩) w, ?_⟩
  rw [and_maskSentinels_eq_iff]
  simp only [decodeResponse_eq_ok_iff, exists_and_left, exists_eq', and_true]

/-! ### The user id in the frame (O15) -/

/-- Settles O15: the request issued holds the two bytes of the user id (R94), whatever its command. -/
theorem userIdRoundTripsThroughTheFrame : Obligations.UserIdRoundTripsThroughTheFrame := by
  intro uid perm s t i hidle hi hexec
  have hreq : ∃ cmd p3, buildReq i = some ⟨cmd, highByte uid, lowByte uid, p3⟩ := by
    simp only [List.mem_cons, List.not_mem_nil, or_false] at hi
    rcases hi with rfl | rfl | rfl | rfl | rfl | rfl <;> exact ⟨_, _, rfl⟩
  obtain ⟨cmd, p3, hreq⟩ := hreq
  rw [exec_request i _ hreq s, offerRequest_idle _ s hidle] at hexec
  cases hexec
  exact ⟨rfl, rfl, joinBytes_high_low uid⟩

/-! ### Table words (O57, O5) -/

/-- A table word decodes to a request or response row of its frame (log entry 9). -/
theorem decodeTableWord_cases (nbits w : Nat) (i : Instr) (h : decodeTableWord nbits w = some i) :
    decodeRequest (tableFrame nbits w) = .ok i ∨ decodeResponse (tableFrame nbits w) = .ok i := by
  have hresp : responseOf (tableFrame nbits w) = some i → decodeResponse (tableFrame nbits w) = .ok i := by
    unfold responseOf
    split <;> simp_all
  unfold decodeTableWord at h
  split at h
  · cases h
  split at h
  · next j hj =>
    split at h
    · cases h; exact .inl hj
    · exact .inr (hresp h)
  · exact .inr (hresp h)

/-- An edge that shows a request and nothing else offers it (R186, R211). -/
theorem takeInput_requestEdge (r : Request) (s : State) : takeInput (requestEdge r) s = .next (offerRequest r s) := by
  cases hp : s.phase with
  | idle =>
    simp only [takeInput, requestEdge, clockEdge, hp, edgeIdle, exec_requestInstr]
    rfl
  | tx | rx =>
    rw [offerRequest_busy r s (by simp [hp])]
    simp [takeInput, requestEdge, clockEdge, hp, edgeTx, edgeRx]

/-- Settles O57: a request row is offered at the port, a response row arrives as its own frame. -/
theorem placedTableWordIsExecuted : Obligations.PlacedTableWordIsExecuted := by
  intro s nbits w i h
  have hstep : step (s.withFetchWord nbits w) = takeInput (tableInput nbits w) s := step_input _ _ s.inputs rfl
  rw [hstep]
  rcases decodeTableWord_cases nbits w i h with hdec | hdec
  · obtain ⟨r, hr⟩ := (buildReq_isSome_iff i).2 (decodeRequest_direction _ i hdec)
    rw [exec_request i r hr s, ← takeInput_requestEdge, tableInput, h]
    simp only [hr]
  · obtain ⟨hdir, henc⟩ := decodeResponse_row _ i hdec
    have hnone : buildReq i = none := by
      cases hr : buildReq i with
      | none => rfl
      | some r => simpa [hdir] using (buildReq_isSome_iff i).1 ⟨r, hr⟩
    rw [exec_response i hdir s, henc, tableInput, h]
    simp only [hnone, takeInput, receiveWord_next]
    rfl

/-- Settles O5: the decoder is run on the six words. -/
theorem specWordsDecodeAsWritten : Obligations.SpecWordsDecodeAsWritten := by
  unfold Obligations.SpecWordsDecodeAsWritten
  decide

end Sys2Proof.Machine
end

section
/-!
PROOFS. The obligations about the checksum (40_checksum.md R130 to R133). First the laws of `Chk`, where a change at one operand
is carried to the last by exchanges, then what `ChkVerify` says of a frame, then the three obligations.
-/

namespace Sys2Proof.Machine

/-! ### The order of the operands (R132) -/

section
variable (c p1 p2 p3 d : Byte)

theorem chk_swap_c_p1 : chk p1 c p2 p3 = chk c p1 p2 p3 := by
  rw [chk_eq_xor, chk_eq_xor, BitVec.xor_comm p1]

theorem chk_swap_p1_p2 : chk c p2 p1 p3 = chk c p1 p2 p3 := by
  rw [chk_eq_xor, chk_eq_xor]; ac_rfl

theorem chk_swap_p2_p3 : chk c p1 p3 p2 = chk c p1 p2 p3 := by
  rw [chk_eq_xor, chk_eq_xor]; ac_rfl

/-! ### A difference in one operand (R132) -/

theorem chk_xor_p3 : chk c p1 p2 (p3 ^^^ d) = chk c p1 p2 p3 ^^^ d := by
  rw [chk_eq_xor, chk_eq_xor, BitVec.xor_assoc _ p3 d]

theorem chk_xor_p2 : chk c p1 (p2 ^^^ d) p3 = chk c p1 p2 p3 ^^^ d := by
  rw [← chk_swap_p2_p3, chk_xor_p3, chk_swap_p2_p3]

theorem chk_xor_p1 : chk c (p1 ^^^ d) p2 p3 = chk c p1 p2 p3 ^^^ d := by
  rw [← chk_swap_p1_p2, chk_xor_p2, chk_swap_p1_p2]

theorem chk_xor_c : chk (c ^^^ d) p1 p2 p3 = chk c p1 p2 p3 ^^^ d := by
  rw [← chk_swap_c_p1, chk_xor_p1, chk_swap_c_p1]

end

/-! ### What ChkVerify says (R133) -/

theorem chkVerify_iff (f : Frame) : chkVerify f = true ↔ f[5] = f[1] ^^^ f[2] ^^^ f[3] ^^^ f[4] :=
  beq_iff_eq

theorem chkVerify_iff_xor_eq_zero (f : Frame) :
    chkVerify f = true ↔ f[1] ^^^ f[2] ^^^ f[3] ^^^ f[4] ^^^ f[5] = 0x00#8 := by
  rw [chkVerify_iff, BitVec.xor_eq_zero_iff, eq_comm]

theorem chkVerify_encodeFrame (c p1 p2 p3 : Byte) : chkVerify (encodeFrame c p1 p2 p3) = true :=
  (chkVerify_iff _).2 (chk_eq_xor c p1 p2 p3)

/-! ### The obligations -/

/-- Settles O6: without the placeholder the checksum is the XOR of its operands, and XOR works bit by bit. -/
theorem checksumIsTheParityOfEachBit : Obligations.ChecksumIsTheParityOfEachBit := by
  intro c p1 p2 p3 i
  rw [chk_eq_xor, BitVec.getLsbD_xor, BitVec.getLsbD_xor, BitVec.getLsbD_xor]

/-- Settles O7: two equal differences are two single ones, and the zero sum is `ChkVerify` of the encoded frame. -/
theorem checksumLaws : Obligations.ChecksumLaws := by
  intro c p1 p2 p3 d
  refine ⟨⟨chk_swap_c_p1 .., chk_swap_p1_p2 .., chk_swap_p2_p3 ..⟩,
    ⟨chk_xor_c .., chk_xor_p1 .., chk_xor_p2 .., chk_xor_p3 ..⟩, ?double,
    (chkVerify_iff_xor_eq_zero _).1 (chkVerify_encodeFrame c p1 p2 p3)⟩
  case double => simp only [chk_xor_c, chk_xor_p1, chk_xor_p2, chk_xor_p3, xor_cancel_right, and_self]

/-- Settles O8: offset 5 is the XOR of offsets 1 to 4 exactly when the XOR of the two is zero. -/
theorem chkVerifyHoldsExactlyForZeroXor : Obligations.ChkVerifyHoldsExactlyForZeroXor :=
  ⟨chkVerify_iff_xor_eq_zero, chkVerify_encodeFrame⟩

end Sys2Proof.Machine
end

section
/-!
PROOFS. The obligations about the framer (41_framer.md R140 to R144): a request is read back off its frame, what the decoder
makes of an encoded frame, the TX byte step, and the bytes that wait outside phase RX.
-/

namespace Sys2Proof.Machine

/-! ### The operands stand in the frame (R140, R144) -/

theorem requestOf_frame (r : Request) : requestOf r.frame = r := rfl

theorem captured_encodeFrame (c p1 p2 p3 : Byte) :
    captured (encodeFrame c p1 p2 p3) = ⟨c, p1, p2, p3, chk c p1 p2 p3, params.reserved⟩ := rfl

theorem decodeBuf_encodeFrame (c p1 p2 p3 : Byte) :
    decodeBuf (encodeFrame c p1 p2 p3).toList = .ok (captured (encodeFrame c p1 p2 p3)) := by
  obtain ⟨hstart, -, -, -, -, -, -, hend⟩ := encodeFrame_bytes c p1 p2 p3
  rw [decodeBuf_frame, if_pos ⟨hstart, hend⟩]

/-- Settles O9: reading offsets 1 to 4 undoes `Encode`. -/
theorem encodeIsInjective : Obligations.EncodeIsInjective :=
  fun _ _ h => Function.LeftInverse.injective requestOf_frame h

/-- Settles O10: `Encode` writes both sentinels, so `Decode` captures the frame's bytes, with the XOR as its checksum. -/
theorem decodeOfAnEncodedFrame : Obligations.DecodeOfAnEncodedFrame := by
  intro c p1 p2 p3
  obtain ⟨-, -, -, -, -, hchk, -⟩ := encodeFrame_bytes c p1 p2 p3
  refine ⟨hchk.trans (chk_eq_xor c p1 p2 p3), _, decodeBuf_encodeFrame c p1 p2 p3, ?_, rfl⟩
  rw [captured_encodeFrame, chk_eq_xor]
  rfl

/-! ### The TX byte step (R142) -/

/-- In phase TX an edge without reset and write failure is the TX byte step if the transport accepts a byte. -/
theorem clockEdge_tx (p : Pins) (s : State) (hp : s.phase = .tx) (hr : p.rst = false) (hf : p.txFail = false) :
    clockEdge p s = .next (if p.txReady then sendByte s else s) := by
  simp [clockEdge, edgeTx, hp, hr, hf]

/-- Settles O17: the three cases are a byte accepted with `tx_idx < 8`, one accepted beyond, and none accepted. -/
theorem txByteStepSendsOneByte : Obligations.TxByteStepSendsOneByte := by
  intro s p hp hr hf
  rw [clockEdge_tx p s hp hr hf]
  by_cases hready : p.txReady = true
  · rw [if_pos hready]
    by_cases hi : s.txIdx.toNat < 8
    · rw [dif_pos ⟨hready, hi⟩, sendByte_enabled s hi, hp]
      simp only [txIdx_succ_eq_eight]
    · rw [dif_neg fun h => hi h.2, sendByte_disabled s hi]
  · rw [dif_neg fun h => hready h.1, if_neg hready]

/-! ### The bytes that wait (R63, R143) -/

theorem readPort_rxReady_zero (s : State) : readPort .rxReady s = some 0#64 ↔ s.phase ≠ .rx :=
  (bitOutput_eq_zero _).trans beq_eq_false_iff_ne

@[simp] theorem closeStandalone_rxChan (s : State) : (closeStandalone s).rxChan = s.rxChan := by
  rcases closeStandalone_cases s with h | h <;> rw [h] <;> rfl

@[simp] theorem sendByte_rxChan (s : State) : (sendByte s).rxChan = s.rxChan := by
  unfold sendByte
  split <;> rfl

/-- Outside phase RX only an arrival changes the RX channel: taking a byte is the one other effect that does. -/
theorem MoveEffect.keeps_rxChan {s t : State} {m : Input} (he : MoveEffect s m t) (hp : s.phase ≠ .rx)
    (harrive : ∀ b, m ≠ .arrive b) (hresponse : ∀ w, m ≠ .response w) : t.rxChan = s.rxChan := by
  cases he with
  | takeByte p _ hrx _ _ => exact absurd hrx hp
  | arrive b => exact absurd rfl (harrive b)
  | receive w => exact absurd rfl (hresponse w)
  | hold => rfl
  | rst p _ => rfl
  | issue p _ _ _ => rfl
  | closeStandalone p _ _ _ _ => exact closeStandalone_rxChan s
  | pushStandalone p _ _ _ _ _ => rfl
  | writeFailed p _ _ _ => rfl
  | sendByte p _ _ _ _ _ => exact sendByte_rxChan s
  | readFailed p _ _ _ _ => rfl
  | readTimeout p _ _ _ _ _ => rfl

theorem step_response_waits (s : State) (w : FrameWord) (rest : List Input) (hp : s.phase ≠ .rx)
    (hi : s.inputs = .response w :: rest) :
    step s = .next (setRxChan (s.rxChan ++ (frameOfWord w).toList) (setInputs rest s)) := by
  rw [step_input s _ rest hi, takeInput, receiveWord_next, receiveFrame_waits _ (setInputs rest s) hp, setInputs_rxChan]

/-- Settles O45: an arrival appends its bytes to the channel, and outside phase RX no other move touches it. -/
theorem bytesAreTakenOnlyInPhaseRx : Obligations.BytesAreTakenOnlyInPhaseRx := by
  intro s
  refine ⟨fun b rest hi => step_input s (.arrive b) rest hi, fun hp =>
    ⟨(readPort_rxReady_zero s).2 hp, fun w rest hi => step_response_waits s w rest hp hi, ?others⟩⟩
  case others =>
    intro t hs harrive hresponse
    rcases step_moveEffect s t hs with rfl | ⟨m, rest, hi, he⟩
    · rfl
    · exact he.keeps_rxChan hp (fun b hm => harrive b rest (hm ▸ hi)) (fun w hm => hresponse w rest (hm ▸ hi))

end Sys2Proof.Machine
end

section
/-!
PROOFS. The obligations about the decoder (42_decoder.md R155 to R177): the pure functions `Decode` and `Classify`, the push
steps, the standalone close, DECODEBUF as a run of the machine, and the acknowledgment rows that complete an exchange.
-/

namespace Sys2Proof.Machine

/-! ### Decode (O19, O20) -/

theorem decodeBuf_wrong_length (buf : List Byte) (h : buf.length ≠ 8) : decodeBuf buf = .malformed := by
  unfold decodeBuf
  split
  · exact absurd rfl h
  · rfl

theorem eq_toList_of_length_eight (buf : List Byte) (h : buf.length = 8) : ∃ f : Frame, buf = f.toList := by
  obtain ⟨f, hf⟩ := take_eight_eq_frame buf h.ge
  exact ⟨f, by rw [← hf, List.take_of_length_le h.le]⟩

/-- With length 8 either sentinel alone decides (R157). -/
theorem decodeBuf_frame_eq_malformed_iff (f : Frame) :
    decodeBuf f.toList = .malformed ↔ f[0] ≠ params.startByte ∨ f[7] ≠ params.endByte := by
  rw [decodeBuf_frame, ← not_and_or]
  split <;> simp_all

/-- Settles O19: by the length, and for a buffer that is a frame by its two sentinels. -/
theorem decodeIsMalformedExactlyForLengthOrSentinel : Obligations.DecodeIsMalformedExactlyForLengthOrSentinel := by
  intro buf
  by_cases hlen : buf.length = 8
  · obtain ⟨f, rfl⟩ := eq_toList_of_length_eight buf hlen
    rw [decodeBuf_frame_eq_malformed_iff]
    simp [params]
  · exact iff_of_true (decodeBuf_wrong_length buf hlen) (.inl hlen)

/-- Settles O20: the outcome is decided by offsets 0 and 7, and q1 to q3 are offsets 2 to 4. -/
theorem decodeNeverChecksEchoChecksumOrReserved : Obligations.DecodeNeverChecksEchoChecksumOrReserved := by
  intro f g h0 h2 h3 h4 h7
  rw [decodeBuf_frame, decodeBuf_frame, ← h0, ← h7]
  by_cases hs : f[0] = params.startByte ∧ f[7] = params.endByte
  · rw [if_pos hs, if_pos hs]
    exact .inr ⟨_, _, rfl, rfl, h2, h3, h4⟩
  · rw [if_neg hs, if_neg hs]
    exact .inl ⟨rfl, rfl⟩

/-! ### Classify (O21) -/

/-- The seven named codes as literals (R101). -/
theorem namedAck_eq_false_iff (b : Byte) :
    namedAck b = false ↔ ∀ v ∈ [0x00#8, 0x01#8, 0x04#8, 0x05#8, 0x06#8, 0x07#8, 0x08#8], b ≠ v := by
  simp [namedAck, params, and_assoc]

theorem classify_unnamed (b : Byte) (h : namedAck b = false) :
    classify b = .unknown b ∧ (classify b).portCode = 7#3 := by
  rw [classify_eq_unknown b h]
  exact ⟨rfl, rfl⟩

/-- Settles O21: the seven codes by the table, every other byte by the last branch. -/
theorem classifyFollowsTheTable : Obligations.ClassifyFollowsTheTable :=
  ⟨classify_params, fun b h => classify_unnamed b ((namedAck_eq_false_iff b).2 h)⟩

/-! ### The push steps (O22, O23) -/

/-- What a stored byte leaves at each offset: beyond the eighth it is stored nowhere (R166). -/
theorem storeByte_byte (b : Byte) (s : State) (k : Nat) (hk : k < 8) :
    (storeByte b s).rxBuf[k] = if k = s.rxCnt.toNat then b else s.rxBuf[k] := by
  simp only [storeByte_rxBuf, Vector.getElem_setIfInBounds, eq_comm]

/-- Up to the eighth byte the count does not saturate (R25). -/
theorem countUp_eq_succ (n : BitVec 4) (h : n.toNat < 8) : countUp n = n + 1#4 := by
  apply BitVec.eq_of_toNat_eq
  rw [countUp_toNat, txIdx_succ_toNat n h]
  omega

theorem clockEdge_push (p : Pins) (s : State) (hp : s.phase = .idle) (hr : p.rst = false) (hreq : p.reqValid = false)
    (hclose : p.decClose = false) (hpush : p.decPush = true) : clockEdge p s = .next (storeByte p.decByte s) := by
  simp [clockEdge, edgeIdle, hp, hr, hreq, hclose, hpush, pushStandalone]

theorem clockEdge_close (p : Pins) (s : State) (hp : s.phase = .idle) (hr : p.rst = false) (hreq : p.reqValid = false)
    (hclose : p.decClose = true) : clockEdge p s = .next (closeStandalone s) := by
  simp [clockEdge, edgeIdle, hp, hr, hreq, hclose]

theorem clockEdge_takeByte (p : Pins) (s : State) (b : Byte) (rest : List Byte) (hp : s.phase = .rx)
    (hc : s.rxChan = b :: rest) (hr : p.rst = false) (hv : p.rxValid = true) :
    clockEdge p s = .next (pushExchange b (setRxChan rest s)) := by
  simp [clockEdge, edgeRx, hp, hr, hv, hc, offerByte_rx s b rest hp hc]

/-- Settles O22: the edge stores the pushed byte and counts it. -/
theorem standalonePushStoresOneByte : Obligations.StandalonePushStoresOneByte := by
  intro s p hp hr hreq hclose hpush
  exact ⟨_, clockEdge_push p s hp hr hreq hclose hpush, rfl, countUp_toNat s.rxCnt, storeByte_byte p.decByte s⟩

/-- Settles O23: below the eighth byte the push step of an exchange only stores. -/
theorem exchangePushStoresOneByte : Obligations.ExchangePushStoresOneByte := by
  intro s p b rest hp hn hc hr hv
  have h7 : s.rxCnt ≠ 7#4 := by
    rintro h
    rw [h] at hn
    exact absurd hn (by decide)
  refine ⟨storeByte b (setRxChan rest s), ?_, rfl, countUp_eq_succ s.rxCnt (by omega), storeByte_byte b (setRxChan rest s)⟩
  rw [clockEdge_takeByte p s b rest hp hc hr hv, pushExchange_more b (setRxChan rest s) h7]

/-! ### The standalone close (O26) -/

theorem enterError_errorEntered (k : ResKind) (c : ResIoCause) (x : Bool) (s : State) :
    ErrorEntered k c x s (enterError k c x s) :=
  ⟨⟨rfl, rfl, rfl, rfl⟩, ⟨rfl, rfl⟩, rfl, rfl, rfl, rfl, rfl, rfl⟩

theorem recordExchange_frameRecorded (s : State) :
    FrameRecorded s.rxBuf (classify s.rxBuf[4]).portCode true (recordExchange s) :=
  ⟨⟨rfl, rfl, rfl, rfl⟩, ⟨rfl, rfl, rfl, rfl, rfl, rfl⟩, ⟨rfl, rfl, chkVerify_iff s.rxBuf⟩, rfl, rfl⟩

theorem recordStandalone_frameRecorded (s : State) (hp : s.phase = .idle) :
    FrameRecorded s.rxBuf (classify s.rxBuf[4]).portCode false (recordStandalone s) :=
  ⟨⟨rfl, rfl, rfl, rfl⟩, ⟨rfl, rfl, rfl, rfl, rfl, rfl⟩, ⟨rfl, rfl, chkVerify_iff s.rxBuf⟩, rfl, hp⟩

@[simp] theorem closeStandalone_rxBuf (s : State) : (closeStandalone s).rxBuf = s.rxBuf := by
  rcases closeStandalone_cases s with h | h <;> rw [h] <;> rfl

@[simp] theorem closeStandalone_inputs (s : State) : (closeStandalone s).inputs = s.inputs := by
  rcases closeStandalone_cases s with h | h <;> rw [h] <;> rfl

@[simp] theorem closeStandalone_resOpValid (s : State) : (closeStandalone s).resOpValid = false := by
  rcases closeStandalone_cases s with h | h <;> rw [h] <;> rfl

theorem closeStandalone_senderSame (s : State) : SenderSame s (closeStandalone s) :=
  ⟨closeStandalone_txBuf s, closeStandalone_txIdx s, closeStandalone_txSent s, closeStandalone_inputs s⟩

/-- There is an operation result only after an exchange (R38). -/
theorem opResult_none (s : State) (h : s.resOpValid = false) : opResult s = none := by
  simp [opResult, h]

/-- Settles O26: the close step records a good buffer and rejects every other one. -/
theorem standaloneCloseDecodesTheBuffer : Obligations.StandaloneCloseDecodesTheBuffer := by
  intro s p hp hr hreq hclose
  refine ⟨_, clockEdge_close p s hp hr hreq hclose, closeStandalone_senderSame s, closeStandalone_rxChan s,
    closeStandalone_rxBuf s, opResult_none _ (closeStandalone_resOpValid s), ?_⟩
  split
  · next hgood =>
    rw [closeStandalone_good s ((bufferGood_iff s).2 hgood)]
    exact recordStandalone_frameRecorded s hp
  · next hbad =>
    rw [closeStandalone_bad s (Bool.eq_false_of_not_eq_true fun h => hbad ((bufferGood_iff s).1 h))]
    exact enterError_errorEntered .malformed .none false s

/-! ### DECODEBUF (O27) -/

/-- The buffer after any number of pushes (R166). -/
def storeBytes : List Byte → State → State
  | [], s => s
  | b :: bs, s => storeBytes bs (storeByte b s)

/-- The host's moves of DECODEBUF push its bytes one after another and close (R168). -/
theorem run_decodeBufMoves (buf : List Byte) (rest : List Input) (s : State) (hp : s.phase = .idle)
    (hi : s.inputs = decodeBufMoves buf ++ rest) :
    run (buf.length + 1) s = .next (closeStandalone (storeBytes buf (setInputs rest s))) := by
  induction buf generalizing s with
  | nil => exact run_input 0 s _ _ rest hi (clockEdge_close _ (setInputs rest s) hp rfl rfl rfl)
  | cons b bs ih =>
    rw [List.length_cons, run_input _ s _ _ (decodeBufMoves bs ++ rest) hi
      (clockEdge_push _ (setInputs (decodeBufMoves bs ++ rest) s) hp rfl rfl rfl rfl)]
    exact ih (storeByte b (setInputs (decodeBufMoves bs ++ rest) s)) hp rfl

/-- Pushes write the receiving side only. -/
theorem storeBytes_eq_withRx (bytes : List Byte) (s : State) :
    storeBytes bytes s = withRx (storeBytes bytes s).rxBuf (storeBytes bytes s).rxCnt s.rxChan s := by
  induction bytes generalizing s with
  | nil => rfl
  | cons b bs ih => exact ih (storeByte b s)

/-- The count follows the pushes up to 9 (R25, R169). -/
theorem storeBytes_rxCnt (bytes : List Byte) (s : State) (h : s.rxCnt.toNat ≤ 9) :
    (storeBytes bytes s).rxCnt.toNat = min (s.rxCnt.toNat + bytes.length) 9 := by
  induction bytes generalizing s with
  | nil => exact (Nat.min_eq_left h).symm
  | cons b bs ih =>
    have hup := countUp_toNat s.rxCnt
    rw [storeBytes, ih (storeByte b s) (by rw [storeByte_rxCnt]; omega), storeByte_rxCnt, List.length_cons]
    omega

/-- Eight pushes on an empty buffer fill it. -/
theorem storeBytes_eight (f : Frame) (s : State) (hn : s.rxCnt = 0#4) : (storeBytes f.toList s).rxBuf = f := by
  rw [frame_toList]
  simp only [storeBytes, storeByte_rxBuf, storeByte_rxCnt, hn]
  exact (fill_frame s.rxBuf ..).trans (frame_eta f).symm

/-- The close step answers `Decode` of a full buffer and rejects every other count (R167, R156). -/
theorem decodeResult_closeStandalone (s : State) : decodeResult (closeStandalone s) =
    some (if s.rxCnt = 8#4 then decodeBuf s.rxBuf.toList else .malformed) := by
  cases hg : bufferGood s with
  | true =>
    obtain ⟨h8, hsentinels⟩ := (bufferGood_iff s).1 hg
    rw [closeStandalone_good s hg, if_pos h8, decodeBuf_frame, if_pos hsentinels]
    rfl
  | false =>
    rw [closeStandalone_bad s hg]
    split
    · next h8 =>
      have hsentinels : ¬ (s.rxBuf[0] = params.startByte ∧ s.rxBuf[7] = params.endByte) := fun h => by
        rw [(bufferGood_iff s).2 ⟨h8, h⟩] at hg
        cases hg
      rw [decodeBuf_frame, if_neg hsentinels]
      rfl
    · rfl

/-- Pushed into an empty buffer and closed, bytes of any number give `Decode` of them (R168). -/
theorem decodeResult_close_storeBytes (buf : List Byte) (s : State) (hn : s.rxCnt = 0#4) :
    decodeResult (closeStandalone (storeBytes buf s)) = some (decodeBuf buf) := by
  have hcnt : (storeBytes buf s).rxCnt.toNat = min buf.length 9 := by
    rw [storeBytes_rxCnt buf s (by simp [hn]), hn, BitVec.toNat_zero, Nat.zero_add]
  have h8 : (storeBytes buf s).rxCnt = 8#4 ↔ buf.length = 8 := by
    rw [← BitVec.toNat_inj, hcnt, BitVec.toNat_ofNat]
    omega
  rw [decodeResult_closeStandalone]
  by_cases hlen : buf.length = 8
  · rw [if_pos (h8.2 hlen)]
    obtain ⟨f, rfl⟩ := eq_toList_of_length_eight buf hlen
    rw [storeBytes_eight f s hn]
  · rw [if_neg fun h => hlen (h8.1 h), decodeBuf_wrong_length buf hlen]

/-- Settles O27: the run is the pushes and the close, by induction on the buffer. -/
theorem decodeBufIsDecodeOfTheBuffer : Obligations.DecodeBufIsDecodeOfTheBuffer := by
  intro s buf rest hp hn hi
  have hdecode := decodeResult_close_storeBytes buf (setInputs rest s) hn
  refine ⟨_, run_decodeBufMoves buf rest s hp hi, hdecode, ?_⟩
  rw [storeBytes_eq_withRx buf (setInputs rest s)]
  obtain ⟨hbuf, hidx, hsent, hinputs⟩ := closeStandalone_senderSame
    (withRx (storeBytes buf (setInputs rest s)).rxBuf (storeBytes buf (setInputs rest s)).rxCnt s.rxChan (setInputs rest s))
  exact ⟨closeStandalone_resOpValid _, closeStandalone_resValid _, closeStandalone_phase _ hp, closeStandalone_rxCnt _,
    hinputs, hbuf, hidx, hsent, closeStandalone_rxChan _⟩

/-! ### Acknowledgments that complete an exchange (O28, O29) -/

/-- A frame with both sentinels that arrives at the start of phase RX, nothing stale waiting, completes the exchange (R190). -/
theorem receiveFrame_completes (f : Frame) (h0 : f[0] = params.startByte) (h7 : f[7] = params.endByte) (s : State)
    (hp : s.phase = .rx) (hn : s.rxCnt = 0#4) (hc : s.rxChan = []) :
    Completed f (classify f[4]).portCode s (receiveFrame f s) := by
  have hgood : bufferGood (withRx f 8#4 [] s) = true := (bufferGood_iff _).2 ⟨rfl, h0, h7⟩
  have hop := opResult_close (withRx f 8#4 [] s)
  rw [if_pos hgood] at hop
  rw [receiveFrame_eight f s hp hn hc]
  refine ⟨?_, hop, ?_, closeExchange_rxChan _, closeExchange_senderSame _⟩ <;> rw [closeExchange_good _ hgood]
  · exact recordExchange_frameRecorded (withRx f 8#4 [] s)
  · rfl

/-- The same of a response row, whose frame has both sentinels (R92). -/
theorem exec_response_completes (i : Instr) (hdir : i.direction = .response) (s : State) (hp : s.phase = .rx)
    (hn : s.rxCnt = 0#4) (hc : s.rxChan = []) :
    ∃ t, exec i s = .next t ∧ Completed (encode i) (classify (encode i)[4]).portCode s t := by
  have hstart : (encode i)[0] = params.startByte := by rw [encode_response i hdir]; rfl
  have hend : (encode i)[7] = params.endByte := by rw [encode_response i hdir]; rfl
  exact ⟨_, exec_response i hdir s, receiveFrame_completes (encode i) hstart hend s hp hn hc⟩

/-- Settles O28: the seven rows are response rows, and byte 4 of each frame is its code. -/
theorem namedAcknowledgmentsCompleteTheExchange : Obligations.NamedAcknowledgmentsCompleteTheExchange := by
  intro e h l k r s hp hn hc
  have completes := fun i hdir => exec_response_completes i hdir s hp hn hc
  exact ⟨completes (.ackSuccess e h l k r) rfl, completes (.ackFail e h l k r) rfl,
    completes (.ackDatabaseFull e h l k r) rfl, completes (.ackNoUser e h l k r) rfl,
    completes (.ackUserIdOccupied e h l k r) rfl, completes (.ackFingerprintOccupied e h l k r) rfl,
    completes (.ackTimeout e h l k r) rfl⟩

/-- Settles O29: byte 4 is kept in the frame and its class is Unknown. -/
theorem unknownAcknowledgmentCompletesTheExchange : Obligations.UnknownAcknowledgmentCompletesTheExchange := by
  intro e h l q k r s hp hn hc hq
  have hclass : (classify (encode (.ackUnknown e h l q k r))[4]).portCode = 7#3 :=
    (classify_unnamed q ((namedAck_eq_false_iff q).2 hq)).2
  have completed := exec_response_completes (.ackUnknown e h l q k r) rfl s hp hn hc
  rw [hclass] at completed
  exact completed

end Sys2Proof.Machine
end

section
/-!
PROOFS. The obligations about the exchange (43_exchange.md R185 to R197): what a busy block ignores, the frame it sends, the
eighth byte, the three transport events, and the whole exchange against the function `Exchange`.
-/

namespace Sys2Proof.Machine

/-! ### The host's ports while an exchange runs (O16, O47) -/

theorem readPort_reqReady (s : State) : readPort .reqReady s = some 1#64 ↔ s.phase = .idle :=
  (bitOutput_eq_one _).trans (by rw [Bool.not_eq_true', busy_eq_false])

/-- Settles O16: a request row offers `BuildReq`'s request, which a busy block ignores. -/
theorem requestWhileBusyChangesNothing : Obligations.RequestWhileBusyChangesNothing := by
  intro s
  refine ⟨readPort_reqReady s, fun hbusy i hdir => ?_⟩
  obtain ⟨r, hr⟩ := (buildReq_isSome_iff i).2 hdir
  rw [exec_request i r hr s, offerRequest_busy r s hbusy]

theorem edgeTx_congr {p q : Pins} (hready : p.txReady = q.txReady) (hfail : p.txFail = q.txFail) (s : State) :
    edgeTx p s = edgeTx q s := by
  rw [edgeTx, edgeTx, hready, hfail]

theorem edgeRx_congr {p q : Pins} (hvalid : p.rxValid = q.rxValid) (htimeout : p.rxTimeout = q.rxTimeout)
    (hfail : p.rxFail = q.rxFail) (s : State) : edgeRx p s = edgeRx q s := by
  rw [edgeRx, edgeRx, hvalid, htimeout, hfail]

/-- Settles O47: the edges of the two busy phases read the transport's pins only. -/
theorem hostCannotTouchARunningExchange : Obligations.HostCannotTouchARunningExchange := by
  intro s p q hbusy hrst hready hfail hvalid htimeout hrfail
  unfold clockEdge
  rw [hrst, edgeTx_congr hready hfail s, edgeRx_congr hvalid htimeout hrfail s]
  cases hp : s.phase with
  | idle => exact absurd hp hbusy
  | tx => rfl
  | rx => rfl

/-! ### A whole response (O56) -/

theorem receiveWord_row (w : FrameWord) (i : Instr) (s : State) (h : decodeResponse (frameOfWord w) = .ok i) :
    receiveWord w s = exec i s := by
  simp only [receiveWord, h]

/-- Settles O56: the arriving frame is dispatched to the row it decodes to. -/
theorem stepRunsTheArrivingResponse : Obligations.StepRunsTheArrivingResponse := by
  intro s w i rest hi hdec
  rw [decode_response_frame] at hdec
  rw [step_input s _ rest hi, takeInput, receiveWord_row w i _ hdec]
  rfl

/-! ### The frame goes out (O18) -/

theorem takeInput_acceptedByte (p : Pins) (s : State) (hp : s.phase = .tx) (hr : p.rst = false) (hf : p.txFail = false)
    (hready : p.txReady = true) : takeInput (.edge p) s = .next (sendByte s) := by
  rw [takeInput, clockEdge_tx p s hp hr hf, if_pos hready]

/-- Accepted bytes, as many as are still to go, send the rest of the frame. The phase hypothesis is what the TX byte step
keeps: phase TX below offset 8, phase RX there (R142, R188). -/
theorem run_acceptedBytes (rest : List Input) (ps : List Pins)
    (hps : ∀ p ∈ ps, p.rst = false ∧ p.txFail = false ∧ p.txReady = true) (s : State)
    (hp : s.phase = if s.txIdx = 8#4 then .rx else .tx) (hlen : s.txIdx.toNat + ps.length = 8)
    (hi : s.inputs = ps.map Input.edge ++ rest) :
    run ps.length s = .next { s with
      inputs := rest, txSent := s.txSent ++ s.txBuf.toList.drop s.txIdx.toNat, txIdx := 8#4, phase := .rx } := by
  induction ps generalizing s with
  | nil =>
    have h8 : s.txIdx = 8#4 := BitVec.eq_of_toNat_eq hlen
    have hdone : s.txBuf.toList.drop s.txIdx.toNat = [] := by simp [h8]
    rw [hdone, List.append_nil, ← h8, ← show s.inputs = rest from hi, ← show s.phase = .rx by rw [hp, if_pos h8]]
    rfl
  | cons p ps ih =>
    rw [List.length_cons] at hlen ⊢
    obtain ⟨hr, hf, hready⟩ := hps p List.mem_cons_self
    have hlt : s.txIdx.toNat < 8 := by omega
    have hsucc := txIdx_succ_toNat s.txIdx hlt
    have htx : s.phase = .tx := by rw [hp, if_neg fun h => by simp [h] at hlt]
    have hsent := takeInput_acceptedByte p (setInputs (ps.map Input.edge ++ rest) s) htx hr hf hready
    have hdrop : s.txBuf.toList.drop s.txIdx.toNat =
        s.txBuf[s.txIdx.toNat] :: s.txBuf.toList.drop (s.txIdx.toNat + 1) := by
      rw [List.drop_eq_getElem_cons (by simpa using hlt), Vector.getElem_toList]
    rw [run_input _ s _ _ _ hi hsent, sendByte_enabled (setInputs (ps.map Input.edge ++ rest) s) hlt,
      ih (fun q hq => hps q (List.mem_cons_of_mem p hq)) _ (by rw [← htx]; rfl)
        (by simp only [setInputs_txIdx, hsucc]; omega) rfl]
    simp [hsucc, hdrop, setInputs]

/-- Settles O18: from offset 0 the rest of the frame is the whole frame. -/
theorem eightAcceptedBytesSendTheFrame : Obligations.EightAcceptedBytesSendTheFrame := by
  intro s ps rest hp h0 hlen hps
  have hrun := run_acceptedBytes rest ps hps { s with inputs := ps.map Input.edge ++ rest } (by simp [hp, h0])
    (by simp [h0, hlen]) rfl
  rw [hlen] at hrun
  simpa [h0] using hrun

/-! ### The eighth byte (O24, O25) -/

theorem clockEdge_lastByte {p : Pins} {b : Byte} {rest : List Byte} {s : State} (h : LastByteAt p b rest s) :
    clockEdge p s = .next (closeExchange (withRx (s.rxBuf.setIfInBounds 7 b) 8#4 rest s)) := by
  obtain ⟨hp, hn, hc, hr, hv⟩ := h
  have hstore : storeByte b (setRxChan rest s) = withRx (s.rxBuf.setIfInBounds 7 b) 8#4 rest s := by
    simp only [storeByte, setRxChan_rxCnt, setRxChan_rxBuf, hn]
    rfl
  rw [clockEdge_takeByte p s b rest hp hc hr hv, pushExchange_last b (setRxChan rest s) hn, hstore]

/-- With the eighth byte stored, START and that byte decide (R157). -/
theorem bufferGood_lastByte_iff (b : Byte) (rest : List Byte) (s : State) :
    bufferGood (withRx (s.rxBuf.setIfInBounds 7 b) 8#4 rest s) = true ↔
      s.rxBuf[0] = params.startByte ∧ b = params.endByte := by
  simp [bufferGood_iff, withRx]

/-- The record of a frame does not show its END byte. -/
theorem FrameRecorded.of_setEnd {f : Frame} {b : Byte} {fromExchange : Bool} {t : State}
    (h : FrameRecorded (f.setIfInBounds 7 b) (classify (f.setIfInBounds 7 b)[4]).portCode fromExchange t) :
    FrameRecorded f (classify f[4]).portCode fromExchange t := by
  simpa [FrameRecorded] using h

@[simp] theorem closeExchange_rxBuf (s : State) : (closeExchange s).rxBuf = s.rxBuf := by
  rcases closeExchange_cases s with h | h <;> rw [h] <;> rfl

/-- Settles O24: the buffer with its eighth byte is good, so the close step records it. -/
theorem eighthByteRecordsAWellFormedFrame : Obligations.EighthByteRecordsAWellFormedFrame := by
  intro s p rest hlast h0
  have hgood := (bufferGood_lastByte_iff 0xF5#8 rest s).2 ⟨h0, rfl⟩
  refine ⟨_, clockEdge_lastByte hlast, ?_, closeExchange_senderSame _, closeExchange_rxChan _, closeExchange_rxBuf _⟩
  rw [closeExchange_good _ hgood]
  exact (recordExchange_frameRecorded (withRx (s.rxBuf.setIfInBounds 7 0xF5#8) 8#4 rest s)).of_setEnd

/-- Settles O25: a wrong sentinel makes the buffer bad, so the close step is the error entry. -/
theorem eighthByteRejectsAMalformedFrame : Obligations.EighthByteRejectsAMalformedFrame := by
  intro s p b rest hlast hwrong
  have hbad : bufferGood (withRx (s.rxBuf.setIfInBounds 7 b) 8#4 rest s) = false :=
    Bool.eq_false_of_not_eq_true fun hgood =>
      have ⟨hstart, hend⟩ := (bufferGood_lastByte_iff b rest s).1 hgood
      hwrong.elim (absurd hstart) (absurd hend)
  refine ⟨_, clockEdge_lastByte hlast, ?_, ?_⟩
  · rw [opResult_close, hbad]
    rfl
  · rw [closeExchange_bad _ hbad]
    exact enterError_errorEntered .malformed .none true (withRx (s.rxBuf.setIfInBounds 7 b) 8#4 rest s)

/-! ### The transport events (O38) -/

theorem opResult_raiseIoError (cause : IoCause) (s : State) :
    opResult (raiseIoError cause s) = some (.opErr (.ioError cause)) := by
  cases cause <;> rfl

section
variable {p : Pins} {s : State} (hr : p.rst = false)
include hr

theorem clockEdge_writeFailed (hp : s.phase = .tx) (hf : p.txFail = true) :
    clockEdge p s = .next (raiseIoError .writeFailed s) := by
  simp [clockEdge, edgeTx, hr, hp, hf]

/-- With no byte delivered, the edge in phase RX sees the two events of the transport (R247). -/
theorem clockEdge_noByte (hp : s.phase = .rx) (hv : p.rxValid = false ∨ s.rxChan = []) :
    clockEdge p s = .next (if p.rxFail = true then raiseIoError .readFailed s
      else if p.rxTimeout = true then raiseIoError .readTimeout s else s) := by
  have hno : ¬ (p.rxValid = true ∧ s.rxChan ≠ []) := by rwa [not_and_or, not_not, Bool.not_eq_true]
  simp only [clockEdge, edgeRx, hr, hp, if_neg hno, Bool.false_eq_true, if_false]

end

/-- Settles O38: each event reaches its own error entry. -/
theorem transportEventsEndTheExchange : Obligations.TransportEventsEndTheExchange := by
  intro s p hr
  refine ⟨fun hp hf => ?_, fun hp hv hf => ?_, fun hp hv hf ht => ?_⟩
  · exact ⟨_, clockEdge_writeFailed hr hp hf, enterError_errorEntered .ioErr .writeFailed true s,
      opResult_raiseIoError .writeFailed s⟩
  · refine ⟨raiseIoError .readFailed s, ?_, enterError_errorEntered .ioErr .readFailed true s,
      opResult_raiseIoError .readFailed s⟩
    rw [clockEdge_noByte hr hp hv, if_pos hf]
  · refine ⟨raiseIoError .readTimeout s, ?_, enterError_errorEntered .ioErr .readTimeout true s,
      opResult_raiseIoError .readTimeout s⟩
    rw [clockEdge_noByte hr hp hv, hf, ht]
    rfl

/-! ### The whole exchange (O39) -/

theorem exchangeMoves_length (r : Request) (txs : List TxAnswer) (rxs : List RxAnswer) :
    (exchangeMoves r txs rxs).length = txs.length + 1 + (rxs.flatMap RxAnswer.moves).length := by
  simp only [exchangeMoves, List.length_cons, List.length_append, List.length_map]
  omega

/-- The first half of an exchange: the issue step, then the write-all of the request's frame (R141, R187, R193). -/
theorem run_issue_writeAll (r : Request) (txs : List TxAnswer) (rest : List Input) (s : State) (hp : s.phase = .idle)
    (hi : s.inputs = requestEdge r :: (txs.map TxAnswer.move ++ rest)) :
    ∃ t, run (txs.length + 1) s = .next t ∧ t.inputs = rest ∧ t.rxChan = s.rxChan ∧ t.txBuf = r.frame ∧
      t.txSent = s.txSent ++ (writeAll r.frame.toList txs).1 ∧
      (match (writeAll r.frame.toList txs).2 with
       | .waiting => t.phase = .tx ∧ t.resValid = false
       | .failed c => t.phase = .idle ∧ t.resValid = true ∧ opResult t = some (.opErr (.ioError c))
       | .complete _ => t.phase = .rx ∧ t.rxCnt = 0#4 ∧ t.resValid = false) := by
  have hissue := takeInput_requestEdge r (setInputs (txs.map TxAnswer.move ++ rest) s)
  rw [offerRequest_idle r (setInputs (txs.map TxAnswer.move ++ rest) s) hp] at hissue
  rw [run_input _ s _ _ _ hi hissue]
  exact run_writeAll rest txs (issue r (setInputs (txs.map TxAnswer.move ++ rest) s)) rfl (Nat.zero_lt_succ 7) rfl

/-- Settles O39: where the write-all is complete the read-exact follows on an empty channel; where it is not, the read
answers change nothing but the channel. -/
theorem exchangeRefinesItsFunction : Obligations.ExchangeRefinesItsFunction := by
  intro s r txs rxs hp hc hi
  obtain ⟨u, hrun, hin, hchan, hbuf, hsent, hwritten⟩ :=
    run_issue_writeAll r txs (rxs.flatMap RxAnswer.moves) s hp hi
  rw [exchangeMoves_length, run_add _ _ _ _ hrun]
  have hin' : u.inputs = rxs.flatMap RxAnswer.moves ++ [] := by rw [hin, List.append_nil]
  cases hw : (writeAll r.frame.toList txs).2 with
  | waiting =>
    rw [hw] at hwritten
    obtain ⟨htx, hvalid⟩ := hwritten
    obtain ⟨ch, hread⟩ := run_rxAnswers_outside [] rxs u (by simp [htx]) hin'
    refine ⟨_, hread, rfl, hsent, ?_⟩
    simp only [exchange, hw]
    exact ⟨by simp [htx], hvalid⟩
  | failed c =>
    rw [hw] at hwritten
    obtain ⟨hidle, hvalid, hop⟩ := hwritten
    obtain ⟨ch, hread⟩ := run_rxAnswers_outside [] rxs u (by simp [hidle]) hin'
    refine ⟨_, hread, rfl, hsent, ?_⟩
    simp only [exchange, hw]
    exact ⟨⟨hidle, hvalid⟩, hop⟩
  | complete _ =>
    rw [hw] at hwritten
    obtain ⟨hrx, hcnt, hvalid⟩ := hwritten
    have hself : withRx u.rxBuf (BitVec.ofNat 4 0) [] u = u := by
      rw [← hc, ← hchan, ← show u.rxCnt = BitVec.ofNat 4 0 from hcnt]
      rfl
    obtain ⟨t, hread, htin, htsent, hres⟩ := run_readExact [] rxs 0 u.rxBuf u (by decide) hrx (by rw [hself]; exact hin')
    rw [hself] at hread
    rw [show 8 - 0 = 8 from rfl, readExact_start u.rxBuf unread, hbuf] at hres
    refine ⟨t, hread, htin, htsent.trans hsent, ?_⟩
    simp only [exchange, hw, show params.frameLen = 8 from rfl]
    cases hr : readExact 8 unread rxs with
    | waiting =>
      rw [hr] at hres
      obtain ⟨htrx, htvalid⟩ := hres
      exact ⟨by simp [htrx], htvalid.trans hvalid⟩
    | failed c =>
      rw [hr] at hres
      obtain ⟨hidle, htvalid, hop⟩ := hres
      exact ⟨⟨hidle, htvalid⟩, hop⟩
    | complete f =>
      rw [hr] at hres
      obtain ⟨hidle, htvalid, hop⟩ := hres
      exact ⟨⟨hidle, htvalid⟩, hop⟩

end Sys2Proof.Machine
end

section
/-!
PROOFS. The obligations about the operation layer (44_operations.md R210 to R228): the frame each request issues, the result
each command reads off its response, errors before values, and the enrollment sequence.
-/

namespace Sys2Proof.Machine

/-! ### A request that is issued (O11 to O14) -/

theorem issue_issued (r : Request) (s : State) : Issued r.frame s (issue r s) :=
  ⟨⟨rfl, rfl, rfl, rfl⟩, ⟨rfl, rfl, rfl, rfl⟩, rfl, rfl, rfl, rfl⟩

/-- The frame of a request, with its checksum as the XOR of the four operands (R140, R131). -/
theorem Request.frame_eq (r : Request) : r.frame =
    #v[params.startByte, r.cmd, r.p1, r.p2, r.p3, r.cmd ^^^ r.p1 ^^^ r.p2 ^^^ r.p3, params.reserved, params.endByte] := by
  rw [Request.frame, encodeFrame, chk_eq_xor]

section
variable {s : State} (hidle : s.phase = .idle)
include hidle

/-- In phase IDLE a request row issues the frame of `BuildReq`'s four bytes (R141, R211). -/
theorem exec_request_issues (i : Instr) (r : Request) (h : buildReq i = some r) :
    ∃ t, exec i s = .next t ∧ Issued #v[params.startByte, r.cmd, r.p1, r.p2, r.p3, r.cmd ^^^ r.p1 ^^^ r.p2 ^^^ r.p3,
      params.reserved, params.endByte] s t := by
  refine ⟨issue r s, ?_, r.frame_eq ▸ issue_issued r s⟩
  rw [exec_request i r h s, offerRequest_idle r s hidle]

/-- A form U row: the third parameter 0x00 drops out of the checksum (R99). -/
theorem exec_formU_issues (i : Instr) (cmd : Byte) (uid : Half) (h : buildReq i = some (formU cmd uid)) :
    ∃ t, exec i s = .next t ∧ Issued #v[params.startByte, cmd, highByte uid, lowByte uid, 0x00#8,
      cmd ^^^ highByte uid ^^^ lowByte uid, params.reserved, params.endByte] s t := by
  simpa only [formU, BitVec.xor_zero] using exec_request_issues hidle i (formU cmd uid) h

/-- A form Z row: the checksum is the command (R99). -/
theorem exec_formZ_issues (i : Instr) (cmd : Byte) (h : buildReq i = some (formZ cmd)) :
    ∃ t, exec i s = .next t ∧ Issued #v[params.startByte, cmd, 0x00#8, 0x00#8, 0x00#8, cmd, params.reserved,
      params.endByte] s t := by
  simpa only [formZ, BitVec.xor_zero] using exec_request_issues hidle i (formZ cmd) h

end

/-- Settles O11: the three rows have form UP. -/
theorem enrollStepsIssueTheirFrames : Obligations.EnrollStepsIssueTheirFrames := by
  rintro uid perm hi lo s hidle rfl rfl
  exact ⟨exec_request_issues hidle (.enroll1 uid perm) _ rfl, exec_request_issues hidle (.enroll2 uid perm) _ rfl,
    exec_request_issues hidle (.enroll3 uid perm) _ rfl⟩

/-- Settles O12: the three rows have form U. -/
theorem userIdRequestsIssueTheirFrames : Obligations.UserIdRequestsIssueTheirFrames := by
  rintro uid hi lo s hidle rfl rfl
  exact ⟨exec_formU_issues hidle (.deluser uid) _ uid rfl, exec_formU_issues hidle (.qperm uid) _ uid rfl,
    exec_formU_issues hidle (.verify11 uid) _ uid rfl⟩

/-- Settles O13: the three rows have form Z. -/
theorem operandlessRequestsIssueTheirFrames : Obligations.OperandlessRequestsIssueTheirFrames := by
  intro s hidle
  exact ⟨exec_formZ_issues hidle .delall _ rfl, exec_formZ_issues hidle .count _ rfl,
    exec_formZ_issues hidle .verify1n _ rfl⟩

/-- Settles O14: the row's four bytes are the request, whatever the command. -/
theorem rawRequestIssuesItsFrame : Obligations.RawRequestIssuesItsFrame := by
  intro c p1 p2 p3 s hidle
  exact exec_request_issues hidle (.raw c p1 p2 p3) _ rfl

/-! ### What each command reads off its response (R217 to R221) -/

section
variable {c : Byte} (d : Decoded)

theorem interpretOk_count (hc : c = params.cmdCount) : interpretOk c d =
    if d.q3 = params.ackSuccess then .userCount (u16 d) else .status (classify d.q3) := by
  simp only [interpretOk, hc, if_true, classify_eq_success]

theorem interpretOk_queryPerm (hc : c = params.cmdQueryPerm) : interpretOk c d =
    if d.q3 = params.ackNoUser then .status .noUser else .permission d.q3 := by
  have hcount : params.cmdQueryPerm ≠ params.cmdCount := by decide
  simp only [interpretOk, hc, if_neg hcount, if_true, classify_eq_noUser]

theorem interpretOk_verify1N (hc : c = params.cmdVerify1N) : interpretOk c d =
    if d.q3 = params.ackNoUser then .noMatch
    else if d.q3 = params.ackTimeout then .noFinger
    else .matched (u16 d) d.q3 := by
  have hcount : params.cmdVerify1N ≠ params.cmdCount := by decide
  have hperm : params.cmdVerify1N ≠ params.cmdQueryPerm := by decide
  simp only [interpretOk, hc, if_neg hcount, if_neg hperm, if_true, classify_eq_noUser, classify_eq_timeout]

theorem interpretOk_other (hcount : c ≠ params.cmdCount) (hperm : c ≠ params.cmdQueryPerm)
    (hverify : c ≠ params.cmdVerify1N) : interpretOk c d = .status (classify d.q3) := by
  rw [interpretOk, if_neg hcount, if_neg hperm, if_neg hverify]

end

/-- An operation value is read off the three response parameters alone (R225, R161). -/
theorem interpretOk_congr (c : Byte) {d e : Decoded} (h1 : d.q1 = e.q1) (h2 : d.q2 = e.q2) (h3 : d.q3 = e.q3) :
    interpretOk c d = interpretOk c e := by
  simp only [interpretOk, u16, h1, h2, h3]

/-! ### The result at the eighth byte (O32 to O36) -/

/-- The END byte is no part of what a response says (R160). -/
theorem captured_setEnd (f : Frame) (b : Byte) : captured (f.setIfInBounds 7 b) = captured f := by
  simp [captured]

/-- The result at the edge that delivers the eighth byte: the value of the command sent, or MalformedFrame (R190, R210). -/
theorem opResult_lastByte {p : Pins} {b : Byte} {rest : List Byte} {s t : State} (h : LastByteAt p b rest s)
    (ht : clockEdge p s = .next t) : opResult t = some (if s.rxBuf[0] = params.startByte ∧ b = params.endByte
      then .done (interpretOk s.txBuf[1] (captured s.rxBuf)) else .opErr .malformedFrame) := by
  rw [clockEdge_lastByte h] at ht
  cases ht
  rw [opResult_close]
  simp only [bufferGood_lastByte_iff]
  rw [← captured_setEnd s.rxBuf b]
  rfl

/-- With both sentinels right that edge reports the value of the command sent, with its code (R210, R38). -/
theorem lastByte_reports {p : Pins} {rest : List Byte} {s : State} (h : LastByteAt p params.endByte rest s)
    (h0 : s.rxBuf[0] = params.startByte) {v : OpValue} (hv : interpretOk s.txBuf[1] (captured s.rxBuf) = v) :
    ∃ t, clockEdge p s = .next t ∧ opResult t = some (.done v) ∧ t.resData.opKind = v.portCode := by
  refine ⟨_, clockEdge_lastByte h, ?_, ?_⟩
  · rw [opResult_lastByte h (clockEdge_lastByte h), if_pos ⟨h0, rfl⟩, hv]
  · rw [closeExchange_good _ ((bufferGood_lastByte_iff params.endByte rest s).2 ⟨h0, rfl⟩), ← hv,
      ← captured_setEnd s.rxBuf params.endByte]
    rfl

/-- Settles O32: Success is the one acknowledgment that carries a count. -/
theorem countReportsTheCountOnSuccess : Obligations.CountReportsTheCountOnSuccess := by
  intro s p rest hlast h0 hc
  obtain ⟨t, ht, hop, hkind⟩ := lastByte_reports hlast h0 (interpretOk_count _ hc)
  refine ⟨t, ht, hop, hkind.trans ?_⟩
  exact apply_ite OpValue.portCode ..

/-- Settles O33: every byte 4 but NoUser's is a permission level. -/
theorem queryPermissionReportsByteFour : Obligations.QueryPermissionReportsByteFour := by
  intro s p rest hlast h0 hc
  obtain ⟨t, ht, hop, hkind⟩ := lastByte_reports hlast h0 (interpretOk_queryPerm _ hc)
  refine ⟨t, ht, hop, hkind.trans ?_⟩
  exact apply_ite OpValue.portCode ..

/-- Settles O34: every byte 4 but NoUser's and Timeout's is the permission of a match. -/
theorem verifyOneToManyReportsTheMatch : Obligations.VerifyOneToManyReportsTheMatch := by
  intro s p rest hlast h0 hc
  obtain ⟨t, ht, hop, hkind⟩ := lastByte_reports hlast h0 (interpretOk_verify1N _ hc)
  refine ⟨t, ht, hop, hkind.trans ?_⟩
  rw [apply_ite OpValue.portCode, apply_ite OpValue.portCode]
  rfl

/-- Settles O35: none of the three commands with a reading of their own was sent. -/
theorem otherCommandsReportTheStatus : Obligations.OtherCommandsReportTheStatus := by
  intro s p rest hlast h0 hcount hperm hverify
  exact lastByte_reports hlast h0 (interpretOk_other _ hcount hperm hverify)

/-- Settles O36: the result is a function of START, the eighth byte and the three response parameters. -/
theorem resultIgnoresEchoChecksumAndReserved : Obligations.ResultIgnoresEchoChecksumAndReserved := by
  intro s t p b rest buf hlast h0 h2 h3 h4 ht
  have hlast' : LastByteAt p b rest { s with rxBuf := buf } := hlast
  have hvalue : interpretOk s.txBuf[1] (captured buf) = interpretOk s.txBuf[1] (captured s.rxBuf) :=
    interpretOk_congr _ h2 h3 h4
  refine ⟨_, clockEdge_lastByte hlast', ?_⟩
  rw [opResult_lastByte hlast' (clockEdge_lastByte hlast'), opResult_lastByte hlast ht, h0, hvalue]

/-! ### Errors come first (O40) -/

section
variable {s : State} (hop : s.resOpValid = true)
include hop

theorem opResult_malformed (hk : s.resKind = .malformed) : opResult s = some (.opErr .malformedFrame) := by
  simp [opResult, hop, hk]

theorem opResult_ioErr (hk : s.resKind = .ioErr) :
    opResult s = (ioCauseOfPort s.resIoCause).map fun c => .opErr (.ioError c) := by
  simp [opResult, hop, hk]

end

/-- A cause on the ports is one of the three of R241. -/
theorem ioCauseOfPort_of_ne_none {c : ResIoCause} (h : c ≠ .none) : ∃ cause, ioCauseOfPort c = some cause := by
  cases c with
  | none => exact absurd rfl h
  | writeFailed | readTimeout | readFailed => exact ⟨_, rfl⟩

/-- Only a well-formed frame has an operation value (R223). -/
theorem resKind_of_opResult_done {s : State} {v : OpValue} (h : opResult s = some (.done v)) : s.resKind = .ok := by
  cases hk : s.resKind with
  | ok => rfl
  | none | malformed | ioErr => simp [opResult, hk] at h

/-- Settles O40: an error's kind fixes the result and hides the data. -/
theorem errorsComeFirst : Obligations.ErrorsComeFirst := by
  intro s hop
  refine ⟨fun hk => ⟨opResult_malformed hop hk, resultData_not_ok (by simp [hk])⟩, fun hk hres => ?_,
    fun v => resKind_of_opResult_done⟩
  obtain ⟨cause, hcause⟩ := ioCauseOfPort_of_ne_none (hres.cause_iff.2 hk)
  exact ⟨⟨cause, by rw [opResult_ioErr hop hk, hcause]; rfl⟩, resultData_not_ok (by simp [hk])⟩

/-! ### Enrollment (O41) -/

/-- Settles O41: no transition of the sequence looks at the result that ends its step. -/
theorem enrollmentTakesAllThreeSteps : Obligations.EnrollmentTakesAllThreeSteps := by
  intro uid perm r1 r2 r3
  exact ⟨rfl, rfl, rfl, rfl, rfl⟩

end Sys2Proof.Machine
end

section
/-!
PROOFS. The obligations about the inputs of one clock edge (60_exceptions.md R247, R249): the inputs that are lost in each
phase, the edge that shows none of its phase's inputs, and the winner among several.
-/

namespace Sys2Proof.Machine

/-! ### The edge of each phase (R45) -/

section
variable (p : Pins) {s : State}

theorem clockEdge_of_rst (s : State) (hr : p.rst = true) : clockEdge p s = .next (applyRst s) :=
  if_pos hr

theorem clockEdge_of_idle (hp : s.phase = .idle) :
    clockEdge p s = if p.rst then .next (applyRst s) else edgeIdle p s := by
  rw [clockEdge, hp]

theorem clockEdge_of_tx (hp : s.phase = .tx) :
    clockEdge p s = if p.rst then .next (applyRst s) else .next (edgeTx p s) := by
  rw [clockEdge, hp]

theorem clockEdge_of_rx (hp : s.phase = .rx) :
    clockEdge p s = if p.rst then .next (applyRst s) else .next (edgeRx p s) := by
  rw [clockEdge, hp]

/-- A request wins phase IDLE over both standalone decode inputs (R247). -/
theorem clockEdge_request (hp : s.phase = .idle) (hr : p.rst = false) (hreq : p.reqValid = true) :
    clockEdge p s = .next (issue p.request s) := by
  simp [clockEdge_of_idle p hp, edgeIdle, hr, hreq, exec_requestInstr, offerRequest_idle _ s hp]

theorem clockEdge_noHostInput (hp : s.phase = .idle) (hr : p.rst = false) (hreq : p.reqValid = false)
    (hclose : p.decClose = false) (hpush : p.decPush = false) : clockEdge p s = .next s := by
  simp [clockEdge_of_idle p hp, edgeIdle, hr, hreq, hclose, hpush]

end

/-! ### Inputs that are lost (O48) -/

/-- Settles O48: the edge of a phase does not read the other phases' pins, and without one of its own it has nothing to
do. -/
theorem transportEventsOutsideTheirPhaseAreLost : Obligations.TransportEventsOutsideTheirPhaseAreLost := by
  intro s p a b c d e
  refine ⟨fun hp => ?idle, fun hp => ?tx, fun hp => ?rx, fun hr => ⟨?quietIdle, ?quietTx, ?quietRx⟩⟩
  case idle =>
    rw [clockEdge_of_idle _ hp, clockEdge_of_idle p hp]
    rfl
  case tx =>
    rw [clockEdge_of_tx _ hp, clockEdge_of_tx p hp]
    rfl
  case rx =>
    rw [clockEdge_of_rx _ hp, clockEdge_of_rx p hp]
    rfl
  case quietIdle => exact fun hp hreq hclose hpush => clockEdge_noHostInput p hp hr hreq hclose hpush
  case quietTx =>
    intro hp hready hfail
    rw [clockEdge_tx p s hp hr hfail, hready]
    rfl
  case quietRx =>
    intro hp hv hfail htimeout
    rw [clockEdge_noByte hr hp hv, hfail, htimeout]
    rfl

/-! ### Ties (O49) -/

/-- Settles O49: what a winner does is the same whatever else is asserted, so it is what it does alone. -/
theorem tiesGoToTheStatedWinner : Obligations.TiesGoToTheStatedWinner := by
  intro s p
  refine ⟨fun hr => ?rst, fun hr hp hf => ?txFail, fun hr hp hne hv => ?rxByte, fun hr hp hv hf => ?rxFail,
    fun hr hp hreq => ?request, fun hr hp hreq hclose => ?close⟩
  case rst => rw [clockEdge_of_rst p s hr, clockEdge_of_rst _ s rfl]
  case txFail => rw [clockEdge_writeFailed hr hp hf, clockEdge_writeFailed rfl hp rfl]
  case rxByte =>
    obtain ⟨b, rest, hc⟩ := List.exists_cons_of_ne_nil hne
    rw [clockEdge_takeByte p s b rest hp hc hr hv, clockEdge_takeByte _ s b rest hp hc rfl rfl]
  case rxFail =>
    rw [clockEdge_noByte hr hp (.inl hv), clockEdge_noByte rfl hp (.inl rfl), if_pos hf, if_pos rfl]
  case request => rw [clockEdge_request p hp hr hreq, clockEdge_request _ hp rfl rfl]
  case close => rw [clockEdge_close p s hp hr hreq hclose, clockEdge_close _ s hp rfl rfl rfl]

end Sys2Proof.Machine
end

section
/-!
PROOFS. The obligation about reset (70_reset_and_hazards.md, O50). `rst` wins over every other pin in every phase
(`clockEdge_of_rst`), so the claim is about the state that `applyRst` gives; its fields are the model's laws.
-/

namespace Sys2Proof.Machine

/-- After a reset edge a run can begin (R272). -/
theorem launch_applyRst (s : State) : Launch (applyRst s) :=
  ⟨applyRst_phase s, applyRst_resValid s, applyRst_rxCnt s⟩

/-- Settles O50: an edge with `rst` goes to `applyRst`, which gives the control state its values of R46 and keeps the
channels and the moves to come. -/
theorem resetEdgeAbandonsWithoutAResult : Obligations.ResetEdgeAbandonsWithoutAResult := by
  intro s p hr
  exact ⟨applyRst s, clockEdge_of_rst p s hr, launch_applyRst s, applyRst_txIdx s, applyRst_resKind s,
    applyRst_resIoCause s, applyRst_resOpValid s, applyRst_txSent s, applyRst_rxChan s, applyRst_inputs s⟩

end Sys2Proof.Machine
end
